-- ==== Sys2Proof/Word.lean ====
section
/-! DEFINITION. The word types of the CHIP-8 CORE (R8, R10). -/

namespace Sys2Proof

/-- A memory cell, a general register, a timer, an immediate KK: 8 bits, unsigned (R21, R31, R60, R92). -/
abbrev Byte := BitVec 8

/-- An instruction word, the program counter, the address register, a stack entry: 16 bits (R25, R26, R29, R90). -/
abbrev Word := BitVec 16

/-- The 12-bit address immediate NNN (R92). -/
abbrev Addr12 := BitVec 12

/-- The index of a general register, the field X or Y (R21, R92). -/
abbrev Reg := Fin 16

/-- The register that doubles as the flag (R23). -/
abbrev VF : Reg := 15

/-- The number of memory cells (R8, R60). -/
abbrev memSize : Nat := 4096

/-- The number of framebuffer cells (R8, R34). -/
abbrev fbSize : Nat := 2048

/-- Where programs are loaded and where pc stands after reset (R8, R39). -/
abbrev loadBase : Nat := 0x200

/-- The highest pc an instruction can be fetched from (R122). -/
abbrev lastFetch : Nat := 0xFFE

end Sys2Proof
end

