-- ==== Sys2Proof/Syntax.lean ====
section
/-! DEFINITION. The 35 instructions of the opcode map (R96), one constructor per row, in the map's order. -/

namespace Sys2Proof

/-- An instruction with its operand fields as R92 names them: `x` and `y` are the fields X and Y, `kk` is KK,
`nnn` is NNN and `n` is the sprite height N. SHR and SHL keep the Y they are encoded with although it is
ignored (R99), so that an instruction stands for exactly one word. -/
inductive Instr where
  | cls                          -- 00E0
  | ret                          -- 00EE
  | sys (nnn : Addr12)           -- 0NNN, other than the two above
  | jp (nnn : Addr12)            -- 1NNN
  | call (nnn : Addr12)          -- 2NNN
  | seImm (x : Reg) (kk : Byte)  -- 3XKK
  | sneImm (x : Reg) (kk : Byte) -- 4XKK
  | seReg (x y : Reg)            -- 5XY0
  | ldImm (x : Reg) (kk : Byte)  -- 6XKK
  | addImm (x : Reg) (kk : Byte) -- 7XKK
  | ldReg (x y : Reg)            -- 8XY0
  | orReg (x y : Reg)            -- 8XY1
  | andReg (x y : Reg)           -- 8XY2
  | xorReg (x y : Reg)           -- 8XY3
  | addReg (x y : Reg)           -- 8XY4
  | sub (x y : Reg)              -- 8XY5
  | shr (x y : Reg)              -- 8XY6
  | subn (x y : Reg)             -- 8XY7
  | shl (x y : Reg)              -- 8XYE
  | sneReg (x y : Reg)           -- 9XY0
  | ldI (nnn : Addr12)           -- ANNN
  | jpV0 (nnn : Addr12)          -- BNNN
  | rnd (x : Reg) (kk : Byte)    -- CXKK
  | drw (x y : Reg) (n : Fin 16) -- DXYN
  | skp (x : Reg)                -- EX9E
  | sknp (x : Reg)               -- EXA1
  | ldVxDt (x : Reg)             -- FX07
  | ldVxK (x : Reg)              -- FX0A
  | ldDtVx (x : Reg)             -- FX15
  | ldStVx (x : Reg)             -- FX18
  | addI (x : Reg)               -- FX1E
  | ldF (x : Reg)                -- FX29
  | ldB (x : Reg)                -- FX33
  | stRegs (x : Reg)             -- FX55
  | ldRegs (x : Reg)             -- FX65
  deriving DecidableEq, Repr

end Sys2Proof
end

