-- ==== Sys2Proof/Decode.lean ====
section
/-! DEFINITION. Decoding (R90 to R99, R124) and, after it, the encoder and the opcode map as data. -/

namespace Sys2Proof

/-- The n-th nibble of a word, n0 the lowest (R91). -/
def nibble (w : Word) (k : Nat) : Nat := w.toNat / 16 ^ k % 16

/-- Field X, bits 11 to 8 (R92). -/
def fieldX (w : Word) : Reg := Fin.ofNat 16 (w.toNat / 0x100)

/-- Field Y, bits 7 to 4 (R92). -/
def fieldY (w : Word) : Reg := Fin.ofNat 16 (w.toNat / 0x10)

/-- Field N, bits 3 to 0 (R92). -/
def fieldN (w : Word) : Fin 16 := Fin.ofNat 16 w.toNat

/-- Field KK, bits 7 to 0 (R92). -/
def fieldKK (w : Word) : Byte := BitVec.ofNat 8 w.toNat

/-- Field NNN, bits 11 to 0 (R92). -/
def fieldNNN (w : Word) : Addr12 := BitVec.ofNat 12 w.toNat

/-- Why the decoder reads no instruction. -/
inductive DecodeError where
  /-- The word matches no row of the opcode map (R97). -/
  | unmatched
  /-- Fewer than the two bytes of an instruction word (R90). -/
  | truncated
  deriving DecidableEq, Repr

/-- Family 8: the low nibble selects, 8 to D and F select nothing (R94, R97). -/
def decodeFamily8 (w : Word) : Except DecodeError Instr :=
  match nibble w 0 with
  | 0x0 => .ok (.ldReg (fieldX w) (fieldY w))
  | 0x1 => .ok (.orReg (fieldX w) (fieldY w))
  | 0x2 => .ok (.andReg (fieldX w) (fieldY w))
  | 0x3 => .ok (.xorReg (fieldX w) (fieldY w))
  | 0x4 => .ok (.addReg (fieldX w) (fieldY w))
  | 0x5 => .ok (.sub (fieldX w) (fieldY w))
  | 0x6 => .ok (.shr (fieldX w) (fieldY w))
  | 0x7 => .ok (.subn (fieldX w) (fieldY w))
  | 0xE => .ok (.shl (fieldX w) (fieldY w))
  | _ => .error .unmatched

/-- Family F: the low byte selects (R94, R97). -/
def decodeFamilyF (w : Word) : Except DecodeError Instr :=
  match w.toNat % 0x100 with
  | 0x07 => .ok (.ldVxDt (fieldX w))
  | 0x0A => .ok (.ldVxK (fieldX w))
  | 0x15 => .ok (.ldDtVx (fieldX w))
  | 0x18 => .ok (.ldStVx (fieldX w))
  | 0x1E => .ok (.addI (fieldX w))
  | 0x29 => .ok (.ldF (fieldX w))
  | 0x33 => .ok (.ldB (fieldX w))
  | 0x55 => .ok (.stRegs (fieldX w))
  | 0x65 => .ok (.ldRegs (fieldX w))
  | _ => .error .unmatched

/-- The row of the opcode map a word selects: dispatch on the high nibble, then on the nibbles the pattern
fixes, every literal digit compared (R94, R96); in family 0 the two exact words are tried first (R95). -/
def decodeWord (w : Word) : Except DecodeError Instr :=
  match nibble w 3 with
  | 0x0 =>
    match w.toNat with
    | 0x00E0 => .ok .cls
    | 0x00EE => .ok .ret
    | _ => .ok (.sys (fieldNNN w))
  | 0x1 => .ok (.jp (fieldNNN w))
  | 0x2 => .ok (.call (fieldNNN w))
  | 0x3 => .ok (.seImm (fieldX w) (fieldKK w))
  | 0x4 => .ok (.sneImm (fieldX w) (fieldKK w))
  | 0x5 => if nibble w 0 = 0 then .ok (.seReg (fieldX w) (fieldY w)) else .error .unmatched
  | 0x6 => .ok (.ldImm (fieldX w) (fieldKK w))
  | 0x7 => .ok (.addImm (fieldX w) (fieldKK w))
  | 0x8 => decodeFamily8 w
  | 0x9 => if nibble w 0 = 0 then .ok (.sneReg (fieldX w) (fieldY w)) else .error .unmatched
  | 0xA => .ok (.ldI (fieldNNN w))
  | 0xB => .ok (.jpV0 (fieldNNN w))
  | 0xC => .ok (.rnd (fieldX w) (fieldKK w))
  | 0xD => .ok (.drw (fieldX w) (fieldY w) (fieldN w))
  | 0xE =>
    match w.toNat % 0x100 with
    | 0x9E => .ok (.skp (fieldX w))
    | 0xA1 => .ok (.sknp (fieldX w))
    | _ => .error .unmatched
  | 0xF => decodeFamilyF w
  | _ => .error .unmatched

/-- The word of two bytes in memory order: the first byte holds bits 15 to 8 (R63, R64). -/
def wordOfBytes (hi lo : Byte) : Word := BitVec.ofNat 16 (hi.toNat * 0x100 + lo.toNat)

/-- The decoder on a run of bytes: the instruction at its front, and the bytes after it (R90). -/
def decodeBytes : List Byte → Except DecodeError (Instr × List Byte)
  | hi :: lo :: rest =>
    match decodeWord (wordOfBytes hi lo) with
    | .ok i => .ok (i, rest)
    | .error e => .error e
  | [_] | [] => .error .truncated

/-- The two bytes of a word, as memory holds them (R63). -/
def bytesOfWord (w : Word) : List Byte :=
  [BitVec.ofNat 8 (w.toNat / 0x100), BitVec.ofNat 8 w.toNat]

/-- The instruction word whose bits the opcode table numbers as `w`, of which it gives `nbits`. There is one
length only, 16 bits (R90), so the bits above `nbits`, and above 16, are 0. -/
def tableWord (nbits w : Nat) : Word := BitVec.ofNat 16 (w % 2 ^ nbits)

/-- The instruction the decoder reads from the table's word, laid out in memory order (R63). -/
def decodeTableWord (nbits w : Nat) : Option Instr :=
  match decodeBytes (bytesOfWord (tableWord nbits w)) with
  | .ok (i, _) => some i
  | .error _ => none

/-- What a fetched word is executed as (R124). -/
inductive Decoded where
  /-- A row of the opcode map. -/
  | row (i : Instr)
  /-- A word of SCHIP_PLACEHOLDER_SET (R129). -/
  | placeholder
  /-- A word that no row matches (R128). -/
  | unmatched
  deriving DecidableEq, Repr

/-- Decode of R124: the set of placeholder words is looked at before the rows 0NNN (other) and UNMATCHED only,
so a word that matches any other row is never a placeholder. -/
def decode (placeholders : List Word) (w : Word) : Decoded :=
  match decodeWord w with
  | .ok (.sys nnn) => if w ∈ placeholders then .placeholder else .row (.sys nnn)
  | .ok i => .row i
  | .error _ => if w ∈ placeholders then .placeholder else .unmatched

/-! ## The encoder -/

/-- Format A: the family digit and NNN (R93). -/
def formatA (h : Nat) (nnn : Addr12) : Word := BitVec.ofNat 16 (h * 0x1000 + nnn.toNat)

/-- Format XK: the family digit, X and KK (R93). -/
def formatXK (h : Nat) (x : Reg) (kk : Byte) : Word := BitVec.ofNat 16 (h * 0x1000 + x.val * 0x100 + kk.toNat)

/-- Formats XY and XYN: the family digit, X, Y and the last digit (R93). -/
def formatXYN (h : Nat) (x y : Reg) (l : Fin 16) : Word :=
  BitVec.ofNat 16 (h * 0x1000 + x.val * 0x100 + y.val * 0x10 + l.val)

/-- The word of an instruction, from the patterns of R96 by the layouts of R93. -/
def encode : Instr → Word
  | .cls => 0x00E0
  | .ret => 0x00EE
  | .sys nnn => formatA 0x0 nnn
  | .jp nnn => formatA 0x1 nnn
  | .call nnn => formatA 0x2 nnn
  | .seImm x kk => formatXK 0x3 x kk
  | .sneImm x kk => formatXK 0x4 x kk
  | .seReg x y => formatXYN 0x5 x y 0
  | .ldImm x kk => formatXK 0x6 x kk
  | .addImm x kk => formatXK 0x7 x kk
  | .ldReg x y => formatXYN 0x8 x y 0x0
  | .orReg x y => formatXYN 0x8 x y 0x1
  | .andReg x y => formatXYN 0x8 x y 0x2
  | .xorReg x y => formatXYN 0x8 x y 0x3
  | .addReg x y => formatXYN 0x8 x y 0x4
  | .sub x y => formatXYN 0x8 x y 0x5
  | .shr x y => formatXYN 0x8 x y 0x6
  | .subn x y => formatXYN 0x8 x y 0x7
  | .shl x y => formatXYN 0x8 x y 0xE
  | .sneReg x y => formatXYN 0x9 x y 0
  | .ldI nnn => formatA 0xA nnn
  | .jpV0 nnn => formatA 0xB nnn
  | .rnd x kk => formatXK 0xC x kk
  | .drw x y n => formatXYN 0xD x y n
  | .skp x => formatXK 0xE x 0x9E
  | .sknp x => formatXK 0xE x 0xA1
  | .ldVxDt x => formatXK 0xF x 0x07
  | .ldVxK x => formatXK 0xF x 0x0A
  | .ldDtVx x => formatXK 0xF x 0x15
  | .ldStVx x => formatXK 0xF x 0x18
  | .addI x => formatXK 0xF x 0x1E
  | .ldF x => formatXK 0xF x 0x29
  | .ldB x => formatXK 0xF x 0x33
  | .stRegs x => formatXK 0xF x 0x55
  | .ldRegs x => formatXK 0xF x 0x65

/-! ## The opcode map as data -/

/-- The number of an instruction's row in the map of R96. -/
def rowNumber : Instr → Nat
  | .cls => 1
  | .ret => 2
  | .sys _ => 3
  | .jp _ => 4
  | .call _ => 5
  | .seImm _ _ => 6
  | .sneImm _ _ => 7
  | .seReg _ _ => 8
  | .ldImm _ _ => 9
  | .addImm _ _ => 10
  | .ldReg _ _ => 11
  | .orReg _ _ => 12
  | .andReg _ _ => 13
  | .xorReg _ _ => 14
  | .addReg _ _ => 15
  | .sub _ _ => 16
  | .shr _ _ => 17
  | .subn _ _ => 18
  | .shl _ _ => 19
  | .sneReg _ _ => 20
  | .ldI _ => 21
  | .jpV0 _ => 22
  | .rnd _ _ => 23
  | .drw _ _ _ => 24
  | .skp _ => 25
  | .sknp _ => 26
  | .ldVxDt _ => 27
  | .ldVxK _ => 28
  | .ldDtVx _ => 29
  | .ldStVx _ => 30
  | .addI _ => 31
  | .ldF _ => 32
  | .ldB _ => 33
  | .stRegs _ => 34
  | .ldRegs _ => 35

/-- One row of the opcode map: its number, and the bits its pattern fixes. -/
structure OpcodeRow where
  number : Nat
  pattern : Word
  mask : Word
  deriving DecidableEq, Repr

/-- A word matches a row when it has the row's fixed bits (R94). -/
def OpcodeRow.matchesWord (r : OpcodeRow) (w : Word) : Bool := w &&& r.mask == r.pattern

/-- The rows of families 0 to 7 of R96. The exact words 00E0 and 00EE stand before 0NNN, which gives them
their priority (R95). -/
def opcodeRowsLow : List OpcodeRow :=
  [⟨1, 0x00E0, 0xFFFF⟩, ⟨2, 0x00EE, 0xFFFF⟩, ⟨3, 0x0000, 0xF000⟩, ⟨4, 0x1000, 0xF000⟩, ⟨5, 0x2000, 0xF000⟩,
   ⟨6, 0x3000, 0xF000⟩, ⟨7, 0x4000, 0xF000⟩, ⟨8, 0x5000, 0xF00F⟩, ⟨9, 0x6000, 0xF000⟩, ⟨10, 0x7000, 0xF000⟩]

/-- The rows of families 8 and 9 of R96. -/
def opcodeRowsMiddle : List OpcodeRow :=
  [⟨11, 0x8000, 0xF00F⟩, ⟨12, 0x8001, 0xF00F⟩, ⟨13, 0x8002, 0xF00F⟩, ⟨14, 0x8003, 0xF00F⟩, ⟨15, 0x8004, 0xF00F⟩,
   ⟨16, 0x8005, 0xF00F⟩, ⟨17, 0x8006, 0xF00F⟩, ⟨18, 0x8007, 0xF00F⟩, ⟨19, 0x800E, 0xF00F⟩, ⟨20, 0x9000, 0xF00F⟩]

/-- The rows of families A to F of R96. -/
def opcodeRowsHigh : List OpcodeRow :=
  [⟨21, 0xA000, 0xF000⟩, ⟨22, 0xB000, 0xF000⟩, ⟨23, 0xC000, 0xF000⟩, ⟨24, 0xD000, 0xF000⟩, ⟨25, 0xE09E, 0xF0FF⟩,
   ⟨26, 0xE0A1, 0xF0FF⟩, ⟨27, 0xF007, 0xF0FF⟩, ⟨28, 0xF00A, 0xF0FF⟩, ⟨29, 0xF015, 0xF0FF⟩, ⟨30, 0xF018, 0xF0FF⟩,
   ⟨31, 0xF01E, 0xF0FF⟩, ⟨32, 0xF029, 0xF0FF⟩, ⟨33, 0xF033, 0xF0FF⟩, ⟨34, 0xF055, 0xF0FF⟩, ⟨35, 0xF065, 0xF0FF⟩]

/-- The whole opcode map of R96, in the order a decoder tries it. -/
def opcodeRows : List OpcodeRow := opcodeRowsLow ++ opcodeRowsMiddle ++ opcodeRowsHigh

/-- The first row a word matches. -/
def firstRow (w : Word) : Option OpcodeRow := opcodeRows.find? (·.matchesWord w)

end Sys2Proof
end

