-- ==== Sys2Proof/Config.lean ====
section
/-! DEFINITION. What the spec leaves to the model as named arguments (R9), and the one free value. -/

namespace Sys2Proof

/-- The named parameters of R9 that are fixed for one machine. Every state carries them (log 2), no
operation writes them, and the defaults of R9 are `Sys2Proof.Machine.defaultConfig`. -/
structure Config where
  /-- FONT: what 0x000 to 0x04F hold after reset (R66). -/
  font : Vector Byte 80
  /-- BLOCK_XFER_OFFSET, 0 or 1 (R204, R205). -/
  blockXferOffset : Fin 2
  /-- SCHIP_PLACEHOLDER_SET: words that only advance pc (R98, R129). The order of the list says nothing. -/
  placeholders : List Word
  deriving DecidableEq, Repr

/-- FREE VALUE (log 6). The random byte of the n-th draw: a constant without a body, so nothing is known of
any draw and a claim holds for every sequence (R38, R181). -/
opaque Config.randomByte : Nat → Byte

end Sys2Proof
end

