-- ==== Sys2Proof/Machine/Params.lean ====
section
/-! DEFINITION. The defaults R9 gives its named parameters (logs 3, 4, 5), and the reset contents of memory. -/

namespace Sys2Proof

/-- What cell `a` of memory holds after reset: FONT at 0x000 to 0x04F, 0 everywhere else (R39, R67). This is
also what an address that `State.mem` does not list reads as (log 8). -/
def Config.resetByte (c : Config) (a : Nat) : Byte :=
  if h : a < 80 then c.font[a] else 0

end Sys2Proof

namespace Sys2Proof.Machine

/-- The glyphs of the digits 0 to 7, five rows each (R66). PRESUMED: the spec supplies these bytes from general
knowledge (log 3). -/
def fontLow : List Byte :=
  [0xF0, 0x90, 0x90, 0x90, 0xF0,  0x20, 0x60, 0x20, 0x20, 0x70,
   0xF0, 0x10, 0xF0, 0x80, 0xF0,  0xF0, 0x10, 0xF0, 0x10, 0xF0,
   0x90, 0x90, 0xF0, 0x10, 0x10,  0xF0, 0x80, 0xF0, 0x10, 0xF0,
   0xF0, 0x80, 0xF0, 0x90, 0xF0,  0xF0, 0x10, 0x20, 0x40, 0x40]

/-- The glyphs of the digits 8 to F (R66). PRESUMED, as `fontLow`. -/
def fontHigh : List Byte :=
  [0xF0, 0x90, 0xF0, 0x90, 0xF0,  0xF0, 0x90, 0xF0, 0x10, 0xF0,
   0xF0, 0x90, 0xF0, 0x90, 0x90,  0xE0, 0x90, 0xE0, 0x90, 0xE0,
   0xF0, 0x80, 0x80, 0x80, 0xF0,  0xE0, 0x90, 0x90, 0x90, 0xE0,
   0xF0, 0x80, 0xF0, 0x80, 0xF0,  0xF0, 0x80, 0xF0, 0x80, 0x80]

/-- FONT (R66). -/
def defaultFont : Vector Byte 80 := ⟨(fontLow ++ fontHigh).toArray, rfl⟩

/-- The defaults of R9: the font table of R66, BLOCK_XFER_OFFSET 0 and no placeholder word. -/
def defaultConfig : Config := ⟨defaultFont, 0, []⟩

end Sys2Proof.Machine
end

