-- ==== Sys2Proof/Machine/State.lean ====
section
/-! DEFINITION. The state of the CORE (R20), its reset values (R39), and the reasons a step or a host move can
stop. -/

namespace Sys2Proof.Machine

/-- The fault causes of R261. Each is LATCHED in `State.FAULT` by the instruction or the fetch named here, which
then answers a NEXT state (R262, log 1); no operation of the model answers with the outcome `fault`. SAFE: a
program that reaches one has no successful run in the model. -/
inductive Fault where
  /-- Raised by `Cycle` before the fetch when pc is above 0xFFE (R264). Safe. -/
  | fetchOutOfBounds
  /-- Raised by 2NNN when sp = 16 (R265). Safe. -/
  | stackOverflow
  /-- Raised by 00EE when sp = 0 (R266). Safe. -/
  | stackUnderflow
  /-- Raised by DXYN, FX33, FX55 and FX65 when an effective address is above 0xFFF (R267). Safe. -/
  | memoryOutOfBounds
  /-- Raised by DXYN when a target cell index is above 2047 (R268). Safe. -/
  | framebufferOutOfBounds
  /-- Raised by EX9E and EXA1 when Vx is above 15 (R269). Safe. -/
  | keyIndexOutOfRange
  deriving DecidableEq, Repr

/-- The code of a cause (R261). -/
def Fault.code : Fault → Nat
  | .fetchOutOfBounds => 1
  | .stackOverflow => 2
  | .stackUnderflow => 3
  | .memoryOutOfBounds => 4
  | .framebufferOutOfBounds => 5
  | .keyIndexOutOfRange => 6

/-- Why the model gives an instruction or a host move no meaning. -/
inductive Refusal where
  /-- Raised by `exec` for an instruction that has no meaning yet. Safe. No arm of `exec` uses it. -/
  | notModelled (mnemonic : String)
  /-- Raised by the host move `SetKeyState` with a key above 15: the host has no such move (R275, log 22). Safe. -/
  | keyOutsideKeypad
  /-- Raised by every host move but `Reset` before the first `Reset` (R41, log 22). Safe. -/
  | beforeFirstReset
  deriving DecidableEq, Repr

/-- The fault latch (R36): its cause (none is code 0), the pc of the faulting instruction and its word. -/
structure FaultLatch where
  cause : Option Fault
  pc : Word
  opcode : Word
  deriving DecidableEq, Repr

/-- The latch with no fault in it (R39). -/
def FaultLatch.clear : FaultLatch := ⟨none, 0, 0⟩

/-- The cause as the host reads it, 0 to 6 (R36, R261). -/
def FaultLatch.code (f : FaultLatch) : Nat := (f.cause.map Fault.code).getD 0

/-- Memory: the cells whose content differs from `Config.resetByte`, by rising address (log 8). -/
abbrev Memory := List Host.Cell

/-- The framebuffer: the indices of the cells that hold 1, rising (log 7). -/
abbrev Framebuffer := List Nat

/-- The complete state of the CORE (R20) and two fields of the model's own, the last two. -/
structure State where
  /-- Memory (R60). -/
  mem : Memory
  /-- The general registers V0 to VF (R21). -/
  V : Vector Byte 16
  /-- The address register (R25). -/
  I : Word
  /-- The program counter (R26). -/
  pc : Word
  /-- The call stack's entries (R29). -/
  stack : Vector Word 16
  /-- The number of stack entries in use, 0 to 16 (R30). -/
  sp : Fin 17
  /-- The delay timer (R31). -/
  DT : Byte
  /-- The sound timer (R32). -/
  ST : Byte
  /-- The key latch (R33). -/
  key : Vector Bool 16
  /-- The framebuffer (R34). -/
  fb : Framebuffer
  /-- The redraw flag (R35). -/
  needsRedraw : Bool
  /-- The fault latch (R36). -/
  FAULT : FaultLatch
  /-- THE MODEL'S OWN: the named parameters of R9, which no operation writes (log 2). -/
  config : Config
  /-- THE MODEL'S OWN: how many random bytes were drawn, the argument of `Config.randomByte` (log 6). -/
  draws : Nat
  deriving DecidableEq, Repr

/-- The outcome of an instruction or a step. -/
abbrev Result := Host.Outcome State Fault Refusal

/-- The state after `Reset` (R39, R300) of a machine with the parameters `c`, which has drawn `d` random bytes. -/
def State.resetWith (c : Config) (d : Nat) : State where
  mem := []
  V := Vector.replicate 16 0
  I := 0
  pc := 0x200
  stack := Vector.replicate 16 0
  sp := 0
  DT := 0
  ST := 0
  key := Vector.replicate 16 false
  fb := []
  needsRedraw := true
  FAULT := FaultLatch.clear
  config := c
  draws := d

/-- The state right after reset (R39), with the parameters at the defaults of R9. -/
def State.reset : State := State.resetWith defaultConfig 0

end Sys2Proof.Machine
end

