-- ==== Sys2Proof/Machine/Ops.lean ====
section
/-! DEFINITION. The named operations over memory, registers, stack, framebuffer, keys and timers; the fetch; and
taking a fault. -/

namespace Sys2Proof.Machine

/-! ## Memory (20_memory.md) -/

/-- The cell at `a`: its listed byte, or what an unlisted address reads as (`bg`, log 8). -/
def Memory.read (bg : Nat → Byte) : Memory → Nat → Byte
  | [], a => bg a
  | (k, c) :: m, a => if k = a then c else Memory.read bg m a

/-- List a cell at its place among the rising addresses. -/
def Memory.insert (a : Nat) (b : Byte) : Memory → Memory
  | [] => [(a, b)]
  | (k, c) :: m => if a < k then (a, b) :: (k, c) :: m else (k, c) :: Memory.insert a b m

/-- Store a byte. A byte equal to what the address reads as when unlisted is not listed (log 8). -/
def Memory.write (bg : Nat → Byte) (m : Memory) (a : Nat) (b : Byte) : Memory :=
  let rest := m.filter (fun c => c.1 != a)
  if b = bg a then rest else Memory.insert a b rest

/-- Store bytes at consecutive addresses from `a` up, in ascending order (R69). -/
def Memory.writeAll (bg : Nat → Byte) : Memory → Nat → List Byte → Memory
  | m, _, [] => m
  | m, a, b :: bs => Memory.writeAll bg (Memory.write bg m a b) (a + 1) bs

/-- The canonical form of memory (log 8): addresses rising, each one exists (R60), and no cell equals what its
address reads as when unlisted. -/
abbrev Memory.wf (bg : Nat → Byte) (m : Memory) : Prop :=
  m.Pairwise (fun c d => c.1 < d.1) ∧ ∀ c ∈ m, c.1 < memSize ∧ c.2 ≠ bg c.1

/-- `MemRead(a, 1)` (R11, R62). Callers test `a` against 0xFFF first. -/
def State.readByte (s : State) (a : Nat) : Byte := s.mem.read s.config.resetByte a

/-- `MemWrite` of consecutive bytes from `a` up (R11, R62). Callers test the last address first. -/
def State.writeBytes (s : State) (a : Nat) (bs : List Byte) : State :=
  { s with mem := s.mem.writeAll s.config.resetByte a bs }

/-! ## Registers, pc and timers (R11) -/

/-- `V[x]` (R21). -/
def State.readV (s : State) (x : Reg) : Byte := s.V[x.val]

/-- `V[x] <- b` (R21). -/
def State.writeV (s : State) (x : Reg) (b : Byte) : State := { s with V := s.V.set x.val b }

/-- `I <- v` (R25). -/
def State.setI (s : State) (v : Word) : State := { s with I := v }

/-- `pc <- v` (R26). -/
def State.setPc (s : State) (v : Word) : State := { s with pc := v }

/-- `pc <- pc + 2`, the advance of every instruction that sets no other pc (R27, R125). The sum wraps at 16 bits
only at a pc no cycle can fetch from (log 11). -/
def State.advance (s : State) : State := s.setPc (s.pc + 2)

/-- A conditional skip: `pc + 4` if the condition holds, else `pc + 2` (R27, R148). -/
def State.skipIf (s : State) (c : Bool) : State := s.setPc (if c then s.pc + 4 else s.pc + 2)

/-- `DT <- v` (R31). -/
def State.setDT (s : State) (v : Byte) : State := { s with DT := v }

/-- `ST <- v` (R32). -/
def State.setST (s : State) (v : Byte) : State := { s with ST := v }

/-- A timer's decrement: down by one while above 0, then it stays 0 (R31, R130). -/
def countDown (t : Byte) : Byte := if t = 0 then 0 else t - 1

/-- The timer post-step of a cycle that does not fault (R130). -/
def State.tick (s : State) : State := (s.setDT (countDown s.DT)).setST (countDown s.ST)

/-! ## Call stack (R29, R30) -/

/-- Push: `stack[sp] <- v`, then `sp <- sp + 1`; there is no room when sp = 16 (R30, R142). -/
def State.push? (s : State) (v : Word) : Option State :=
  if h : s.sp.val < 16 then
    some { s with stack := s.stack.set s.sp.val v, sp := ⟨s.sp.val + 1, by omega⟩ }
  else none

/-- Pop: `sp <- sp - 1`, then read `stack[sp]`, which keeps its value; there is nothing when sp = 0 (R30, R140). -/
def State.pop? (s : State) : Option (Word × State) :=
  if h : 0 < s.sp.val then
    some (s.stack[s.sp.val - 1], { s with sp := ⟨s.sp.val - 1, by omega⟩ })
  else none

/-! ## Framebuffer and redraw flag (R34, R35, R70) -/

/-- `FbRead(idx)`: whether the cell holds 1. -/
def Framebuffer.read (fb : Framebuffer) (idx : Nat) : Bool := fb.contains idx

/-- List a lit cell at its place among the rising indices. -/
def Framebuffer.insert (idx : Nat) : Framebuffer → Framebuffer
  | [] => [idx]
  | k :: fb => if idx < k then idx :: k :: fb else k :: Framebuffer.insert idx fb

/-- `FbWrite(idx, FbRead(idx) ^ 1)`. -/
def Framebuffer.toggle (fb : Framebuffer) (idx : Nat) : Framebuffer :=
  if fb.read idx then fb.filter (· != idx) else Framebuffer.insert idx fb

/-- Toggle the cells of a list one after another, and say whether one of them held 1 when its turn came: the loop
of DXYN (R222). -/
def Framebuffer.draw : Framebuffer → List Nat → Framebuffer × Bool
  | fb, [] => (fb, false)
  | fb, idx :: rest =>
    let r := Framebuffer.draw (fb.toggle idx) rest
    (r.1, fb.read idx || r.2)

/-- The canonical form of the framebuffer (log 7): indices rising, each one of an existing cell (R70). -/
abbrev Framebuffer.wf (fb : Framebuffer) : Prop := fb.Pairwise (· < ·) ∧ ∀ i ∈ fb, i < fbSize

/-- The whole framebuffer at once. -/
def State.setFb (s : State) (fb : Framebuffer) : State := { s with fb := fb }

/-- `needs_redraw <- b` (R35). -/
def State.setNeedsRedraw (s : State) (b : Bool) : State := { s with needsRedraw := b }

/-! ## Keys (R33) -/

/-- `Key(k)`. -/
def State.keyDown (s : State) (k : Fin 16) : Bool := s.key[k.val]

/-- All sixteen indices in ascending order, of registers and of keys. -/
def allSixteen : List (Fin 16) := [0, 1, 2, 3, 4, 5, 6, 7, 8, 9, 10, 11, 12, 13, 14, 15]

/-- The lowest key that is down (R242). -/
def State.lowestKey (s : State) : Option (Fin 16) := allSixteen.find? s.keyDown

/-! ## Random source (R38) -/

/-- `RandomByte()`: the free value of this draw (log 6). -/
def State.randomByte (s : State) : Byte := Config.randomByte s.draws

/-- The draw is used up: the next one is another. -/
def State.countDraw (s : State) : State := { s with draws := s.draws + 1 }

/-! ## Faults (60_exceptions.md) -/

/-- What a `raise` names (R261): the cause, and the info value recorded with it for the reader's use, which is not
latched (log 10). -/
structure Raise where
  cause : Fault
  info : Nat
  deriving DecidableEq, Repr

/-- FAULT ENTRY (R262): latch the cause, the pc and the instruction word, and change nothing else. There is no
handler and no return from a fault: only `Reset` clears the latch (R272). -/
def State.latch (s : State) (r : Raise) (opcode : Word) : State :=
  { s with FAULT := ⟨some r.cause, s.pc, opcode⟩ }

/-- `raise` as the outcome of an instruction: a next state, not a stop (log 1). -/
def raise (r : Raise) (opcode : Word) (s : State) : Result := .next (s.latch r opcode)

/-- An instruction whose fault condition is tested before its first write (R125, R263): the fault if there is one,
else the effect. -/
def guarded (fault? : Option Raise) (opcode : Word) (s effect : State) : Result :=
  match fault? with
  | some r => raise r opcode s
  | none => .next effect

/-! ## The cycle's own parts (40_cycle.md) -/

/-- FetchOutOfBounds (R122): pc above 0xFFE. -/
def State.fetchRaise? (s : State) : Option Raise :=
  if lastFetch < s.pc.toNat then some ⟨.fetchOutOfBounds, s.pc.toNat⟩ else none

/-- `MemRead(pc, 2)`: the byte at pc in bits 15 to 8, the byte at pc + 1 below it (R64, R123). -/
def State.fetchWord (s : State) : Word := wordOfBytes (s.readByte s.pc.toNat) (s.readByte (s.pc.toNat + 1))

/-- What the fetched word is executed as, under this machine's placeholder set (R124). -/
def State.fetched (s : State) : Decoded := decode s.config.placeholders s.fetchWord

/-- The end of a cycle (R120): the timer post-step, unless the instruction faulted. -/
def State.endCycle (s : State) : State := if s.FAULT.cause.isSome then s else s.tick

/-- An unmatched word: nothing, pc not advanced (R128). -/
def execUnmatched (s : State) : Result := .next s

/-- A word of SCHIP_PLACEHOLDER_SET: pc advances and nothing else (R129). -/
def execPlaceholder (s : State) : Result := .next s.advance

/-! ## Placing a word where the next step fetches it -/

/-- The state from which a `Cycle` fetches: no fault latched and a pc both of whose bytes exist. In any other
state the latch is emptied and pc set to the reset value (log 13). -/
def State.readyToFetch (s : State) : State :=
  { s with
    FAULT := if s.FAULT.cause.isSome then FaultLatch.clear else s.FAULT
    pc := if lastFetch < s.pc.toNat then 0x200 else s.pc }

/-- The word stored at pc, in memory order (R63). -/
def State.placeWord (s : State) (w : Word) : State :=
  s.readyToFetch.writeBytes s.readyToFetch.pc.toNat (bytesOfWord w)

end Sys2Proof.Machine
end

