-- ==== Sys2Proof/Machine/Flags.lean ====
section
/-! DEFINITION. The values instructions write into VF as a flag (R23). -/

namespace Sys2Proof.Machine

/-- A flag as VF holds it: 1 or 0 (R23). -/
def flagByte (c : Bool) : Byte := if c then 1 else 0

/-- `VF <- flag`. -/
def State.setVF (s : State) (c : Bool) : State := s.writeV VF (flagByte c)

/-- 8XY4: `b > 0xFF - a`, the carry of `a + b` (R176). -/
def addCarry (a b : Byte) : Bool := 0xFF - a.toNat < b.toNat

/-- 8XY5: 0 if `b > a`, else 1; that `a - b` does not borrow (R177). -/
def subNoBorrow (a b : Byte) : Bool := !(a.toNat < b.toNat)

/-- 8XY7: 1 if `b > a`, else 0; equal operands give 0 (R179, log 18). -/
def subnGreater (a b : Byte) : Bool := a.toNat < b.toNat

/-- 8XY6: bit 0, the bit shifted out (R178). -/
def lowBit (a : Byte) : Bool := a.getLsbD 0

/-- 8XYE: bit 7, the bit shifted out (R180). -/
def highBit (a : Byte) : Bool := a.getLsbD 7

/-- FX1E: the exact sum passes 0xFFF (R201, log 19). -/
def indexOverflow (i : Word) (b : Byte) : Bool := 0xFFF < i.toNat + b.toNat

end Sys2Proof.Machine
end

