-- ==== Sys2Proof/Machine/Operands.lean ====
section
/-! DEFINITION. How operands are assembled: immediates, the one data addressing mode (R206), register ranges and
sprites (R221). -/

namespace Sys2Proof.Machine

/-- `zext_16(NNN)` (R10, R92). -/
def zextAddr (nnn : Addr12) : Word := nnn.setWidth 16

/-- `zext_16` of a byte. -/
def zextByte (b : Byte) : Word := b.setWidth 16

/-- MemoryOutOfBounds (R206, R267): of `count` consecutive bytes from `base` one lies above 0xFFF. The info is the
first such address in access order. No access means no fault. -/
def memRaise? (base count : Nat) : Option Raise :=
  if 0 < count ∧ 0xFFF < base + count - 1 then some ⟨.memoryOutOfBounds, max base 0x1000⟩ else none

/-- The registers V0 to Vx in ascending order (R204, R205). -/
def regsUpTo (x : Reg) : List Reg := allSixteen.filter (· ≤ x)

/-- `I + BLOCK_XFER_OFFSET`, where FX55 and FX65 begin (R204, R205). -/
def State.blockBase (s : State) : Nat := s.I.toNat + s.config.blockXferOffset.val

/-- The three decimal digits of a byte, hundreds first (R203, log 15). -/
def bcdDigits (v : Byte) : List Byte :=
  [BitVec.ofNat 8 (v.toNat / 100), BitVec.ofNat 8 (v.toNat / 10 % 10), BitVec.ofNat 8 (v.toNat % 10)]

/-- Load the registers of a list from memory, register k from `base + k`, one after another (R205). -/
def State.loadRegs (s : State) (base : Nat) (ks : List Reg) : State :=
  ks.foldl (fun t k => t.writeV k (s.readByte (base + k.val))) s

/-- The index of the target cell of sprite row `r`, pixel column `c`, for a sprite at column `x0`, row `y0`:
row-major, and neither coordinate is reduced (R70, log 16). -/
def pixelIndex (x0 y0 r c : Nat) : Nat := (y0 + r) * 64 + (x0 + c)

/-- Whether pixel column `c` of a sprite row is set: bit 7 is the leftmost (R221, log 14). -/
def spriteBit (b : Byte) (c : Nat) : Bool := b.getLsbD (7 - c)

/-- The target cells of the set pixels of row `r`, left to right. -/
def spriteRowCells (b : Byte) (x0 y0 r : Nat) : List Nat :=
  ((List.range 8).filter (spriteBit b)).map (pixelIndex x0 y0 r)

/-- The target cells of all set pixels of an `n`-row sprite at `base`, in drawing order (R222). -/
def State.spriteCells (s : State) (x0 y0 base n : Nat) : List Nat :=
  (List.range n).flatMap (fun r => spriteRowCells (s.readByte (base + r)) x0 y0 r)

/-- FramebufferOutOfBounds (R222, R268): the last cell of the whole rectangle lies above 2047, whatever the sprite's
bits are. The info is the largest target index. -/
def fbRaise? (x0 y0 n : Nat) : Option Raise :=
  if 0 < n ∧ 2047 < pixelIndex x0 y0 (n - 1) 7 then some ⟨.framebufferOutOfBounds, pixelIndex x0 y0 (n - 1) 7⟩
  else none

/-- The conditions of DXYN in their order: memory, then framebuffer (R222, R270). -/
def drawRaise? (x0 y0 base n : Nat) : Option Raise := (memRaise? base n).or (fbRaise? x0 y0 n)

/-- KeyIndexOutOfRange (R269): the register names no key. -/
def keyRaise? (k : Byte) : Option Raise :=
  if 15 < k.toNat then some ⟨.keyIndexOutOfRange, k.toNat⟩ else none

/-- `Key(k)` of a register's value, which the callers tested to be below 16 (R240, R241). -/
def State.keyDownOf (s : State) (k : Byte) : Bool := s.keyDown (Fin.ofNat 16 k.toNat)

end Sys2Proof.Machine
end

