-- ==== Sys2Proof/Machine/Alu.lean ====
section
/-! DEFINITION. Register and ALU instructions (42_alu.md). Where X or Y is 0xF the order of the writes is that of R24
(log 17). -/

namespace Sys2Proof.Machine

/-- An instruction whose one effect is a new value of a register. -/
def setReg (x : Reg) (b : Byte) (s : State) : Result := .next (s.writeV x b).advance

/-- An instruction that writes its result to a register and THEN the flag to VF (R24, R176, R177, R179). -/
def setRegThenFlag (x : Reg) (b : Byte) (flag : Bool) (s : State) : Result :=
  .next ((s.writeV x b).setVF flag).advance

/-- A shift: the bit shifted out goes to VF FIRST, then the register is read again and shifted (R24, R178, R180). -/
def flagThenShift (x : Reg) (out : Byte → Bool) (shift : Byte → Byte) (s : State) : Result :=
  let t := s.setVF (out (s.readV x))
  .next (t.writeV x (shift (t.readV x))).advance

/-- 6XKK: `Vx <- KK` (R170). -/
def execLdImm (x : Reg) (kk : Byte) (s : State) : Result := setReg x kk s

/-- 7XKK: `Vx <- (Vx + KK) mod 256`, no flag (R171). -/
def execAddImm (x : Reg) (kk : Byte) (s : State) : Result := setReg x (s.readV x + kk) s

/-- 8XY0: `Vx <- Vy` (R172). -/
def execLdReg (x y : Reg) (s : State) : Result := setReg x (s.readV y) s

/-- 8XY1: `Vx <- Vx | Vy` (R173). -/
def execOrReg (x y : Reg) (s : State) : Result := setReg x (s.readV x ||| s.readV y) s

/-- 8XY2: `Vx <- Vx & Vy` (R174). -/
def execAndReg (x y : Reg) (s : State) : Result := setReg x (s.readV x &&& s.readV y) s

/-- 8XY3: `Vx <- Vx ^ Vy` (R175). -/
def execXorReg (x y : Reg) (s : State) : Result := setReg x (s.readV x ^^^ s.readV y) s

/-- 8XY4: `Vx <- (Vx + Vy) mod 256`, then `VF <- carry` (R176). -/
def execAddReg (x y : Reg) (s : State) : Result :=
  setRegThenFlag x (s.readV x + s.readV y) (addCarry (s.readV x) (s.readV y)) s

/-- 8XY5: `Vx <- (Vx - Vy) mod 256`, then `VF <- no borrow` (R177). -/
def execSub (x y : Reg) (s : State) : Result :=
  setRegThenFlag x (s.readV x - s.readV y) (subNoBorrow (s.readV x) (s.readV y)) s

/-- 8XY6: `VF <- Vx & 1`, then `Vx <- Vx >> 1`; Y is ignored (R99, R178). -/
def execShr (x _y : Reg) (s : State) : Result := flagThenShift x lowBit (· >>> 1) s

/-- 8XY7: `Vx <- (Vy - Vx) mod 256`, then `VF <- (Vy > Vx)` (R179). -/
def execSubn (x y : Reg) (s : State) : Result :=
  setRegThenFlag x (s.readV y - s.readV x) (subnGreater (s.readV x) (s.readV y)) s

/-- 8XYE: `VF <- Vx >> 7`, then `Vx <- (Vx << 1) mod 256`; Y is ignored (R99, R180). -/
def execShl (x _y : Reg) (s : State) : Result := flagThenShift x highBit (· <<< 1) s

/-- CXKK: `Vx <- RandomByte() & KK`, a fresh draw (R181, log 6). -/
def execRnd (x : Reg) (kk : Byte) (s : State) : Result := setReg x (s.randomByte &&& kk) s.countDraw

end Sys2Proof.Machine
end

