-- ==== Sys2Proof/Machine/ControlFlow.lean ====
section
/-! DEFINITION. Control transfer (41_control_flow.md). -/

namespace Sys2Proof.Machine

/-- 00EE, RET: pop, and continue two bytes after the popped address; StackUnderflow when sp = 0 (R140). -/
def execRet (s : State) : Result :=
  match s.pop? with
  | none => raise ⟨.stackUnderflow, s.pc.toNat⟩ (encode .ret) s
  | some (v, t) => .next (t.setPc (v + 2))

/-- 1NNN, JP: `pc <- NNN` (R141). -/
def execJp (nnn : Addr12) (s : State) : Result := .next (s.setPc (zextAddr nnn))

/-- 2NNN, CALL: push the address of this word, `pc <- NNN`; StackOverflow when sp = 16 (R142). -/
def execCall (nnn : Addr12) (s : State) : Result :=
  match s.push? s.pc with
  | none => raise ⟨.stackOverflow, s.pc.toNat⟩ (encode (.call nnn)) s
  | some t => .next (t.setPc (zextAddr nnn))

/-- 3XKK: skip if Vx = KK (R143). -/
def execSeImm (x : Reg) (kk : Byte) (s : State) : Result := .next (s.skipIf (s.readV x == kk))

/-- 4XKK: skip if Vx ≠ KK (R144). -/
def execSneImm (x : Reg) (kk : Byte) (s : State) : Result := .next (s.skipIf (s.readV x != kk))

/-- 5XY0: skip if Vx = Vy (R145). -/
def execSeReg (x y : Reg) (s : State) : Result := .next (s.skipIf (s.readV x == s.readV y))

/-- 9XY0: skip if Vx ≠ Vy (R146). -/
def execSneReg (x y : Reg) (s : State) : Result := .next (s.skipIf (s.readV x != s.readV y))

/-- BNNN, JP V0: `pc <- NNN + V0`, not reduced to 12 bits (R147). -/
def execJpV0 (nnn : Addr12) (s : State) : Result := .next (s.setPc (zextAddr nnn + zextByte (s.readV 0)))

end Sys2Proof.Machine
end

