-- ==== Sys2Proof/Machine/Display.lean ====
section
/-! DEFINITION. Display instructions (44_display.md). -/

namespace Sys2Proof.Machine

/-- 00E0, CLS: every cell 0, and the redraw flag set even if nothing changed (R220). -/
def execCls (s : State) : Result := .next ((s.setFb []).setNeedsRedraw true).advance

/-- DXYN, DRW: the n-row sprite at I is XORed onto the framebuffer at (Vx, Vy); VF becomes 1 if a cell went from 1
to 0, else 0; the redraw flag is set (R222). Vx, Vy and I are read before anything is written (R24, log 17). -/
def execDrw (x y : Reg) (n : Fin 16) (s : State) : Result :=
  let x0 := (s.readV x).toNat
  let y0 := (s.readV y).toNat
  let drawn := s.fb.draw (s.spriteCells x0 y0 s.I.toNat n.val)
  guarded (drawRaise? x0 y0 s.I.toNat n.val) (encode (.drw x y n)) s
    (((s.setFb drawn.1).setVF drawn.2).setNeedsRedraw true).advance

end Sys2Proof.Machine
end

