-- ==== Sys2Proof/Machine/IdleWords.lean ====
section
/-! DEFINITION. The row of the opcode map that does nothing (40_cycle.md section 3). -/

namespace Sys2Proof.Machine

/-- 0NNN, SYS: nothing; pc is not written (R127, log 20). -/
def execSys (_ : Addr12) (s : State) : Result := .next s

end Sys2Proof.Machine
end

