-- ==== Sys2Proof/Machine/IndexMemory.lean ====
section
/-! DEFINITION. Address-register and memory instructions (43_index_memory.md). -/

namespace Sys2Proof.Machine

/-- ANNN: `I <- NNN` (R200). -/
def execLdI (nnn : Addr12) (s : State) : Result := .next (s.setI (zextAddr nnn)).advance

/-- FX1E: `I <- (I + Vx) mod 65536`, then `VF <- (I + Vx > 0xFFF)` from the exact sum (R201, log 19). -/
def execAddI (x : Reg) (s : State) : Result :=
  .next ((s.setI (s.I + zextByte (s.readV x))).setVF (indexOverflow s.I (s.readV x))).advance

/-- FX29: `I <- Vx * 5`, the whole byte (R202). -/
def execLdF (x : Reg) (s : State) : Result := .next (s.setI (zextByte (s.readV x) * 5)).advance

/-- FX33: the three decimal digits of Vx to I, I + 1, I + 2; I stays (R203). -/
def execLdB (x : Reg) (s : State) : Result :=
  guarded (memRaise? s.I.toNat 3) (encode (.ldB x)) s
    (s.writeBytes s.I.toNat (bcdDigits (s.readV x))).advance

/-- FX55: V0 to Vx to memory, then `I <- I + X + 1` (R204). -/
def execStRegs (x : Reg) (s : State) : Result :=
  guarded (memRaise? s.blockBase (x.val + 1)) (encode (.stRegs x)) s
    ((s.writeBytes s.blockBase ((regsUpTo x).map s.readV)).setI (s.I + BitVec.ofNat 16 (x.val + 1))).advance

/-- FX65: V0 to Vx from memory, then `I <- I + X + 1` (R205). -/
def execLdRegs (x : Reg) (s : State) : Result :=
  guarded (memRaise? s.blockBase (x.val + 1)) (encode (.ldRegs x)) s
    ((s.loadRegs s.blockBase (regsUpTo x)).setI (s.I + BitVec.ofNat 16 (x.val + 1))).advance

end Sys2Proof.Machine
end

