-- ==== Sys2Proof/Machine/KeypadTimers.lean ====
section
/-! DEFINITION. Keypad and timer instructions (45_keypad_timers.md). -/

namespace Sys2Proof.Machine

/-- EX9E: skip if the key Vx names is down; KeyIndexOutOfRange when Vx is above 15 (R240). -/
def execSkp (x : Reg) (s : State) : Result :=
  guarded (keyRaise? (s.readV x)) (encode (.skp x)) s (s.skipIf (s.keyDownOf (s.readV x)))

/-- EXA1: skip if the key Vx names is not down; KeyIndexOutOfRange when Vx is above 15 (R241). -/
def execSknp (x : Reg) (s : State) : Result :=
  guarded (keyRaise? (s.readV x)) (encode (.sknp x)) s (s.skipIf (!s.keyDownOf (s.readV x)))

/-- FX0A: the lowest key that is down goes to Vx; with none down nothing happens and pc stays (R242). -/
def execLdVxK (x : Reg) (s : State) : Result :=
  match s.lowestKey with
  | some k => .next (s.writeV x (BitVec.ofNat 8 k.val)).advance
  | none => .next s

/-- FX07: `Vx <- DT` (R243). -/
def execLdVxDt (x : Reg) (s : State) : Result := .next (s.writeV x s.DT).advance

/-- FX15: `DT <- Vx` (R244). -/
def execLdDtVx (x : Reg) (s : State) : Result := .next (s.setDT (s.readV x)).advance

/-- FX18: `ST <- Vx` (R245). -/
def execLdStVx (x : Reg) (s : State) : Result := .next (s.setST (s.readV x)).advance

end Sys2Proof.Machine
end

