-- ==== Sys2Proof/Machine/Step.lean ====
section
/-! DEFINITION. One `Cycle` (R120), and placing an instruction where it fetches. -/

namespace Sys2Proof.Machine

/-- The outcome of an instruction, followed by the end of the cycle (R120, R130). -/
def endStep : Result → Result
  | .next t => .next t.endCycle
  | .fault r => .fault r
  | .refused r => .refused r

/-- What a cycle executes (R124, R125): a row of the opcode map, a placeholder word, or an unmatched word. -/
def execDecoded (d : Decoded) (s : State) : Result :=
  match d with
  | .row i => exec i s
  | .placeholder => execPlaceholder s
  | .unmatched => execUnmatched s

/-- `Cycle` (R120): nothing on a faulted core (R121); FetchOutOfBounds when pc is above 0xFFE (R122); else fetch,
decode, execute and the timer post-step. -/
def step (s : State) : Host.Outcome State Fault Refusal :=
  if s.FAULT.cause.isSome then .next s
  else
    match s.fetchRaise? with
    | some r => raise r 0 s
    | none => endStep (execDecoded s.fetched s)

/-- The table's instruction word stored where `step` fetches its next instruction, and the state made one from which a
`Cycle` fetches at all (log 13). -/
def State.withFetchWord (s : State) (nbits w : Nat) : State := s.placeWord (tableWord nbits w)

end Sys2Proof.Machine
end

