-- ==== Sys2Proof/Machine/HostOps.lean ====
section
/-! DEFINITION. The host's moves (R6, R279): each is one atomic transition, and the host chooses their order (log 22). -/

namespace Sys2Proof.Machine

/-- The host's table of moves (R279). -/
inductive HostOp where
  /-- `Reset` (R300). -/
  | reset
  /-- `LoadProgram` of an image (R306). -/
  | loadProgram (image : List Byte)
  /-- `LoadProgram` whose loader never got the bytes (R274, R306). -/
  | loadFails
  /-- `Cycle` (R120). -/
  | cycle
  /-- `SetKeyState` (R275). -/
  | setKeyState (key : Nat) (pressed : Bool)
  /-- `NeedsRedraw` (R276). -/
  | needsRedraw
  /-- `ClearRedrawFlag` (R277). -/
  | clearRedrawFlag
  /-- `GetFramebuffer` (R278). -/
  | getFramebuffer
  /-- Reading `FAULT` (R36, R279). -/
  | readFault
  deriving DecidableEq, Repr

/-- What a move returns to the host (R279). -/
inductive HostReply where
  | nothing
  | loaded
  | programTooLarge
  | loadFailed
  | redraw (b : Bool)
  /-- The 2048 pixel values, row-major. -/
  | pixels (cells : List Byte)
  | fault (code : Nat) (pc opcode : Word)
  deriving DecidableEq, Repr

/-- `Reset` (R300): the state of R39 whatever came before. The machine's parameters stay, and the draws go on, so
nothing is known of the random bytes after it (logs 2, 6). -/
def State.hostReset (s : State) : State := State.resetWith s.config s.draws

/-- The test of `LoadProgram`: `L + 0x200 >= 4096` is too large (R306, R307, log 23). -/
def imageTooLarge (image : List Byte) : Bool := memSize ≤ image.length + loadBase

/-- `LoadProgram` of an image that fits: its bytes from 0x200 up, and nothing else (R306, R308). -/
def State.loadImage (s : State) (image : List Byte) : State := s.writeBytes loadBase image

/-- `key[k] <- pressed` (R275). -/
def State.setKey (s : State) (k : Fin 16) (pressed : Bool) : State := { s with key := s.key.set k.val pressed }

/-- One cell as the host sees it: 0 or 1 (R278). -/
def pixel (fb : Framebuffer) (idx : Nat) : Byte := if fb.read idx then 1 else 0

/-- `GetFramebuffer`: the 2048 cells, row-major (R278). -/
def State.pixels (s : State) : List Byte := (List.range fbSize).map (pixel s.fb)

/-- A move of the host on a core that was reset: the state after it and what it returns. A key above 15 is no move of
the host's and is refused (R275). -/
def hostOp (op : HostOp) (s : State) : Host.Outcome (State × HostReply) Fault Refusal :=
  match op with
  | .reset => .next (s.hostReset, .nothing)
  | .loadProgram image =>
    if imageTooLarge image then .next (s, .programTooLarge) else .next (s.loadImage image, .loaded)
  | .loadFails => .next (s, .loadFailed)
  | .cycle =>
    match step s with
    | .next t => .next (t, .nothing)
    | .fault r => .fault r
    | .refused r => .refused r
  | .setKeyState k pressed =>
    if h : k < 16 then .next (s.setKey ⟨k, h⟩ pressed, .nothing) else .refused .keyOutsideKeypad
  | .needsRedraw => .next (s, .redraw s.needsRedraw)
  | .clearRedrawFlag => .next (s.setNeedsRedraw false, .nothing)
  | .getFramebuffer => .next (s, .pixels s.pixels)
  | .readFault => .next (s, .fault s.FAULT.code s.FAULT.pc s.FAULT.opcode)

/-- A move on a core that was never reset: only `Reset` is admitted (R41). `d` says where its draws begin. -/
def hostOpBeforeReset (c : Config) (d : Nat) (op : HostOp) : Host.Outcome (State × HostReply) Fault Refusal :=
  match op with
  | .reset => .next (State.resetWith c d, .nothing)
  | .loadProgram _ | .loadFails | .cycle | .setKeyState _ _ | .needsRedraw | .clearRedrawFlag | .getFramebuffer
  | .readFault => .refused .beforeFirstReset

/-- Moves one after another (R6, R71), stopping at the first refused one; the state at the end and the replies in
order. -/
def hostRun : List HostOp → State → Host.Outcome (State × List HostReply) Fault Refusal
  | [], s => .next (s, [])
  | op :: ops, s =>
    match hostOp op s with
    | .next (t, reply) =>
      match hostRun ops t with
      | .next (u, replies) => .next (u, reply :: replies)
      | .fault r => .fault r
      | .refused r => .refused r
    | .fault r => .fault r
    | .refused r => .refused r

end Sys2Proof.Machine
end

