-- ==== Sys2Proof/Safety.lean ====
section
/-! DEFINITION. What claims are stated with: which states are faulted or at rest, what every state of a run satisfies,
and what two states agree on. -/

namespace Sys2Proof.Machine

/-- A fault is latched: the core is stuck until `Reset`, and this is never a successful end (R121). -/
def State.faulted (s : State) : Prop := s.FAULT.cause.isSome = true

/-- A `Cycle` in this state fetches an instruction word: no fault is latched and pc is at most 0xFFE (R120). -/
def State.fetches (s : State) : Prop := s.FAULT.cause = none ∧ s.pc.toNat ≤ lastFetch

/-- Parked on a jump to its own address with both timers at 0: the end of a run that R126 recommends. -/
def State.parked (s : State) : Prop :=
  s.fetches ∧ s.fetchWord.toNat = 0x1000 + s.pc.toNat ∧ s.DT = 0 ∧ s.ST = 0

/-- A dead word at pc: SYS or an unmatched word, a hang (R126). -/
def State.onDeadWord (s : State) : Prop :=
  s.fetches ∧ (s.fetched = .unmatched ∨ ∃ nnn, s.fetched = .row (.sys nnn))

/-- FX0A at pc and no key down: waiting on the host (R126). -/
def State.waitingForKey (s : State) : Prop :=
  s.fetches ∧ (∃ x, s.fetched = .row (.ldVxK x)) ∧ ∀ k, s.keyDown k = false

/-- A step that goes on: neither a stop of the model nor a fault of the core. -/
def safeStep (s : State) : Prop := ∃ t, step s = .next t ∧ ¬ t.faulted

/-- What every state a host can reach satisfies: memory and framebuffer in canonical form (logs 7, 8), pc at most
0x10FE (R28), every stack entry in use the address of a fetchable instruction (R140), and a latch that is either
empty or names the pc the core is stuck at (R262, R263). -/
structure State.Inv (s : State) : Prop where
  memory : s.mem.wf s.config.resetByte
  framebuffer : s.fb.wf
  pcRange : s.pc.toNat ≤ 0x10FE
  entries : ∀ k : Fin 16, k.val < s.sp.val → s.stack[k.val].toNat ≤ lastFetch
  latch : (s.FAULT.cause = none ∧ s.FAULT = FaultLatch.clear) ∨ (s.faulted ∧ s.FAULT.pc = s.pc)

/-- The states a host can bring the core to (R6, R41): any reset state, then any moves. -/
inductive Reachable : State → Prop where
  | reset (c : Config) (d : Nat) : Reachable (State.resetWith c d)
  | move {s t : State} {op : HostOp} {reply : HostReply} :
      Reachable s → hostOp op s = .next (t, reply) → Reachable t

/-- The pieces of state of R20, one name each, and the two fields of the model's own. -/
inductive Part where
  | mem | V | I | pc | stack | sp | DT | ST | key | fb | needsRedraw | FAULT | config | draws
  deriving DecidableEq, Repr

/-- Two states agree on a piece of state; memory and framebuffer are compared by what is read from them. -/
def Part.same (s t : State) : Part → Prop
  | .mem => ∀ a, t.readByte a = s.readByte a
  | .V => ∀ r, t.readV r = s.readV r
  | .I => t.I = s.I
  | .pc => t.pc = s.pc
  | .stack => ∀ k : Fin 16, t.stack[k.val] = s.stack[k.val]
  | .sp => t.sp = s.sp
  | .DT => t.DT = s.DT
  | .ST => t.ST = s.ST
  | .key => ∀ k, t.keyDown k = s.keyDown k
  | .fb => ∀ idx, t.fb.read idx = s.fb.read idx
  | .needsRedraw => t.needsRedraw = s.needsRedraw
  | .FAULT => t.FAULT = s.FAULT
  | .config => t.config = s.config
  | .draws => t.draws = s.draws

/-- THE FRAME: the two states agree on every piece of state but those of a list. -/
def sameBut (touched : List Part) (s t : State) : Prop := ∀ p : Part, p ∉ touched → p.same s t

/-- Every register but those of a list is unchanged. -/
def regsSameBut (regs : List Reg) (s t : State) : Prop := ∀ r : Reg, r ∉ regs → t.readV r = s.readV r

/-- Every byte of memory outside the `count` bytes from `base` reads as before. -/
def memSameOutside (base count : Nat) (s t : State) : Prop :=
  ∀ a, (a < base ∨ base + count ≤ a) → t.readByte a = s.readByte a

/-- The state a fault leaves (R262): the latch holds the cause, the unchanged pc and the word, and all else is as it
was. -/
def faultedWith (cause : Fault) (opcode : Word) (s t : State) : Prop :=
  t.FAULT = ⟨some cause, s.pc, opcode⟩ ∧ sameBut [.FAULT] s t

/-- Both timers went down by one, or stayed at 0 (R130). -/
def timersFell (s t : State) : Prop := t.DT.toNat = s.DT.toNat - 1 ∧ t.ST.toNat = s.ST.toNat - 1

/-- The word of this number, written out from the patterns of R96, is decoded as this instruction. -/
def wordReads (n : Nat) (i : Instr) : Prop := decodeWord (BitVec.ofNat 16 n) = .ok i

/-- The stack entry a 00EE pops, when there is one (R30, R140). -/
def State.topEntry (s : State) : Word := (s.stack[s.sp.val - 1]?).getD 0

/-- The registers an instruction may write, VF as a flag included (R22, R23). -/
def registersWritten : Instr → List Reg
  | .ldImm x _ | .addImm x _ | .ldReg x _ | .orReg x _ | .andReg x _ | .xorReg x _ | .rnd x _ => [x]
  | .ldVxDt x | .ldVxK x => [x]
  | .addReg x _ | .sub x _ | .shr x _ | .subn x _ | .shl x _ => [x, VF]
  | .drw _ _ _ | .addI _ => [VF]
  | .ldRegs x => regsUpTo x
  | .cls | .ret | .sys _ | .jp _ | .call _ | .seImm _ _ | .sneImm _ _ | .seReg _ _ | .sneReg _ _ | .ldI _ | .jpV0 _
  | .skp _ | .sknp _ | .ldDtVx _ | .ldStVx _ | .ldF _ | .ldB _ | .stRegs _ => []

/-- A sprite pixel is set and targets this cell (R221, R222). -/
def spriteCovers (s : State) (x0 y0 n idx : Nat) : Prop :=
  ∃ r < n, ∃ c < 8, (s.readByte (s.I.toNat + r)).getLsbD (7 - c) = true ∧ idx = (y0 + r) * 64 + (x0 + c)

end Sys2Proof.Machine
end

