-- ==== Sys2Proof/Certificates/Slice0/Obligations.lean ====
section
/-! DEFINITION. The statements for the provers. `sameBut` is the frame, `wordReads` the encoding; a statement's docstring
says which clauses rest on a decision of the spec's own (D<n> of 92_eei_decisions.md) and the log entry that names it. -/

open Sys2Proof Sys2Proof.Machine

/-! ## Encoding -/

/-- Words written out from the patterns of R96: at least one of every first hex digit that decodes, and two near misses
that do not. Exact patterns are the spec's decision D13 (log 20). -/
def Obligations.SampleWordsDecode : Prop :=
  decodeWord 0x00E0 = .ok .cls ∧ decodeWord 0x00EE = .ok .ret ∧ decodeWord 0x0123 = .ok (.sys 0x123) ∧
  decodeWord 0x00E1 = .ok (.sys 0x0E1) ∧ decodeWord 0x1ABC = .ok (.jp 0xABC) ∧ decodeWord 0x2300 = .ok (.call 0x300) ∧
  decodeWord 0x332A = .ok (.seImm 3 0x2A) ∧ decodeWord 0x432A = .ok (.sneImm 3 0x2A) ∧
  decodeWord 0x5120 = .ok (.seReg 1 2) ∧ decodeWord 0x5AB1 = .error .unmatched ∧
  decodeWord 0x6A2F = .ok (.ldImm 0xA 0x2F) ∧ decodeWord 0x7105 = .ok (.addImm 1 0x05) ∧
  decodeWord 0x8127 = .ok (.subn 1 2) ∧ decodeWord 0x8128 = .error .unmatched ∧ decodeWord 0x9120 = .ok (.sneReg 1 2) ∧
  decodeWord 0xA2F0 = .ok (.ldI 0x2F0) ∧ decodeWord 0xB300 = .ok (.jpV0 0x300) ∧ decodeWord 0xC30F = .ok (.rnd 3 0x0F) ∧
  decodeWord 0xD345 = .ok (.drw 3 4 5) ∧ decodeWord 0xE29E = .ok (.skp 2) ∧ decodeWord 0xF355 = .ok (.stRegs 3)

/-- No bit of an encoding is dropped: a well-formed instruction's word decodes to it, at every operand value. -/
def Obligations.EncodeThenDecode : Prop :=
  ∀ i : Instr, i.wellFormed = true → decodeWord (encode i) = .ok i

/-- A word has one reading: what it decodes to is well-formed and encodes to that word. It rests on exact patterns, the
spec's decision D13 (log 20), and on SHR and SHL keeping the Y they ignore (R99), the model's choice (log 12). -/
def Obligations.DecodeThenEncode : Prop :=
  ∀ (w : Word) (i : Instr), decodeWord w = .ok i → i.wellFormed = true ∧ encode i = w

/-- The dispatching decoder and the opcode map of R96, read as masks and patterns in order of priority, select the same
row for every word, and none for the same words. Exact patterns are the spec's decision D13 (log 20). -/
def Obligations.DecoderFollowsOpcodeMap : Prop :=
  ∀ w : Word, (firstRow w).map OpcodeRow.number = (decodeWord w).toOption.map rowNumber

/-- The words no row matches are exactly those of R97, under the spec's decision D13 that patterns are exact (log 20). -/
def Obligations.UnmatchedWordsAreTheListedGaps : Prop :=
  ∀ w : Word, decodeWord w = .error .unmatched ↔
    (nibble w 3 = 0x5 ∧ nibble w 0 ≠ 0) ∨
    (nibble w 3 = 0x8 ∧ nibble w 0 ∈ [0x8, 0x9, 0xA, 0xB, 0xC, 0xD, 0xF]) ∨
    (nibble w 3 = 0x9 ∧ nibble w 0 ≠ 0) ∨
    (nibble w 3 = 0xE ∧ w.toNat % 0x100 ∉ [0x9E, 0xA1]) ∨
    (nibble w 3 = 0xF ∧ w.toNat % 0x100 ∉ [0x07, 0x0A, 0x15, 0x18, 0x1E, 0x29, 0x33, 0x55, 0x65])

/-! ## The cycle -/

/-- The fetched word is the byte at pc above the byte at pc + 1, wherever both exist (R64), an odd pc included (R65, the
spec's decision D26, log 26). -/
def Obligations.FetchIsBigEndian : Prop :=
  ∀ s : State, s.pc.toNat + 1 ≤ 0xFFF →
    s.fetchWord = (s.readByte s.pc.toNat ++ s.readByte (s.pc.toNat + 1) : BitVec 16)

/-- A cycle that fetches the bytes of an instruction is that instruction's `exec` followed by the timer post-step, or
`exec` alone where it latched a fault. A word of the placeholder set is no SYS (R124). The part about faults is the
spec's decisions D2 and D14 (logs 1, 20). -/
def Obligations.StepRunsTheDecodedInstruction : Prop :=
  ∀ (s t : State) (i : Instr), s.fetches →
    decodeBytes [s.readByte s.pc.toNat, s.readByte (s.pc.toNat + 1)] = .ok (i, []) →
    (∀ nnn, i = .sys nnn → s.fetchWord ∉ s.config.placeholders) →
    exec i s = .next t →
    (t.FAULT.cause = none → ∃ u, step s = .next u ∧ timersFell t u ∧ sameBut [.DT, .ST] t u) ∧
    (t.faulted → step s = .next t)

/-- No instruction and no cycle stops the model, whatever the state: there is one mode and nothing is privileged, and a
fault is a next state (decision D2, log 1). -/
def Obligations.EveryInstructionAndStepAnswersNext : Prop :=
  (∀ (i : Instr) (s : State), ∃ t, exec i s = .next t) ∧ ∀ s : State, ∃ t, step s = .next t

/-- An unmatched word changes nothing but the timers, does not advance pc and raises nothing, and the next cycle fetches the
same word again. That pc stays, that the timers fall and which words are unmatched are the spec's decisions D12, D14 and
D13 (log 20). -/
def Obligations.UnmatchedWordOnlyTicksTheTimers : Prop :=
  ∀ s : State, s.fetches → decodeWord s.fetchWord = .error .unmatched → s.fetchWord ∉ s.config.placeholders →
    ∃ t, step s = .next t ∧ timersFell s t ∧ sameBut [.DT, .ST] s t ∧ t.fetches ∧ t.fetchWord = s.fetchWord

/-- A word of SCHIP_PLACEHOLDER_SET that no row but 0NNN matches only advances pc by 2 (decision D12, log 5). -/
def Obligations.PlaceholderWordOnlyAdvancesPc : Prop :=
  ∀ s : State, s.fetches → s.fetchWord ∈ s.config.placeholders →
    (decodeWord s.fetchWord = .error .unmatched ∨ ∃ nnn, decodeWord s.fetchWord = .ok (.sys nnn)) →
    ∃ t, step s = .next t ∧ t.pc = s.pc + 2 ∧ timersFell s t ∧ sameBut [.pc, .DT, .ST] s t

/-- 0NNN other than 00E0 and 00EE does nothing at all and leaves pc (decision D12, log 20). -/
def Obligations.SysDoesNothing : Prop :=
  ∀ (nnn : Addr12) (s : State),
    (nnn ≠ 0x0E0 → nnn ≠ 0x0EE → wordReads nnn.toNat (.sys nnn)) ∧ exec (.sys nnn) s = .next s

/-- A cycle with pc above 0xFFE latches FetchOutOfBounds with word 0 and changes nothing else (decision D3, log 21). -/
def Obligations.FetchBeyondMemoryFaults : Prop :=
  ∀ s : State, s.FAULT.cause = none → 0xFFE < s.pc.toNat →
    ∃ t, step s = .next t ∧ faultedWith .fetchOutOfBounds 0 s t

/-- A cycle on a faulted core changes nothing at all (decision D2, log 1). -/
def Obligations.FaultedCoreIsStuck : Prop :=
  ∀ s : State, s.faulted → step s = .next s

/-- Faults are precise: a cycle that latches one leaves everything else as it was, timers included, and the latch names
the pc and the word fetched there, or word 0 where nothing was fetched (decision D2, log 1). -/
def Obligations.FaultsArePrecise : Prop :=
  ∀ s t : State, ¬ s.faulted → step s = .next t → t.faulted →
    sameBut [.FAULT] s t ∧ t.FAULT.pc = s.pc ∧
    (0xFFE < s.pc.toNat → t.FAULT.opcode = 0) ∧ (s.pc.toNat ≤ 0xFFE → t.FAULT.opcode = s.fetchWord)

/-- The table of causes, R261: each cause is latched by a cycle in exactly the situation listed for it. For DXYN memory
is tested before the framebuffer (decisions D2 to D8, log 21). -/
def Obligations.EachFaultHasExactlyItsCause : Prop :=
  ∀ s t : State, ¬ s.faulted → step s = .next t →
    (t.FAULT.cause = some .fetchOutOfBounds ↔ 0xFFE < s.pc.toNat) ∧
    (t.FAULT.cause = some .stackOverflow ↔ s.fetches ∧ s.sp.val = 16 ∧ ∃ nnn, s.fetched = .row (.call nnn)) ∧
    (t.FAULT.cause = some .stackUnderflow ↔ s.fetches ∧ s.sp.val = 0 ∧ s.fetched = .row .ret) ∧
    (t.FAULT.cause = some .memoryOutOfBounds ↔ s.fetches ∧
      ((∃ x y n, s.fetched = .row (.drw x y n) ∧ 0 < n.val ∧ 0xFFF < s.I.toNat + n.val - 1) ∨
       (∃ x, s.fetched = .row (.ldB x) ∧ 0xFFF < s.I.toNat + 2) ∨
       (∃ x, (s.fetched = .row (.stRegs x) ∨ s.fetched = .row (.ldRegs x)) ∧
         0xFFF < s.I.toNat + s.config.blockXferOffset.val + x.val))) ∧
    (t.FAULT.cause = some .framebufferOutOfBounds ↔ s.fetches ∧
      ∃ x y n, s.fetched = .row (.drw x y n) ∧ 0 < n.val ∧ s.I.toNat + n.val - 1 ≤ 0xFFF ∧
        2047 < ((s.readV y).toNat + n.val - 1) * 64 + (s.readV x).toNat + 7) ∧
    (t.FAULT.cause = some .keyIndexOutOfRange ↔ s.fetches ∧
      ∃ x, (s.fetched = .row (.skp x) ∨ s.fetched = .row (.sknp x)) ∧ 15 < (s.readV x).toNat)

/-- The post-step acts on what the instruction wrote: a cycle that does not fault ends with DT one lower than the
instruction left it, that is Vx for FX15 and the old DT for everything else; the same for ST and FX18 (D14, log 20). -/
def Obligations.TimersFallOncePerCycle : Prop :=
  ∀ s t : State, s.fetches → step s = .next t → ¬ t.faulted →
    (∀ x, s.fetched = .row (.ldDtVx x) → t.DT.toNat = (s.readV x).toNat - 1) ∧
    ((∀ x, s.fetched ≠ .row (.ldDtVx x)) → t.DT.toNat = s.DT.toNat - 1) ∧
    (∀ x, s.fetched = .row (.ldStVx x) → t.ST.toNat = (s.readV x).toNat - 1) ∧
    ((∀ x, s.fetched ≠ .row (.ldStVx x)) → t.ST.toNat = s.ST.toNat - 1)

/-- The table of R27: how each instruction, each word that is none, and each fault leaves pc. The rows for faults, for
words that do nothing and for placeholders rest on decisions D2 to D8, D12 and D13 (logs 1, 5, 20, 21). -/
def Obligations.EachInstructionLeavesPcAsListed : Prop :=
  ∀ s t : State, ¬ s.faulted → step s = .next t →
    (t.faulted → t.pc = s.pc) ∧
    (¬ t.faulted →
      match s.fetched with
      | .unmatched | .row (.sys _) => t.pc = s.pc
      | .placeholder => t.pc = s.pc + 2
      | .row (.jp nnn) | .row (.call nnn) => t.pc.toNat = nnn.toNat
      | .row (.jpV0 nnn) => t.pc.toNat = nnn.toNat + (s.readV 0).toNat
      | .row .ret => t.pc = s.topEntry + 2
      | .row (.seImm x kk) => t.pc = if s.readV x = kk then s.pc + 4 else s.pc + 2
      | .row (.sneImm x kk) => t.pc = if s.readV x ≠ kk then s.pc + 4 else s.pc + 2
      | .row (.seReg x y) => t.pc = if s.readV x = s.readV y then s.pc + 4 else s.pc + 2
      | .row (.sneReg x y) => t.pc = if s.readV x ≠ s.readV y then s.pc + 4 else s.pc + 2
      | .row (.skp x) => ∀ k : Fin 16, k.val = (s.readV x).toNat →
          t.pc = if s.keyDown k = true then s.pc + 4 else s.pc + 2
      | .row (.sknp x) => ∀ k : Fin 16, k.val = (s.readV x).toNat →
          t.pc = if s.keyDown k = false then s.pc + 4 else s.pc + 2
      | .row (.ldVxK _) => ((∃ k, s.keyDown k = true) → t.pc = s.pc + 2) ∧ ((∀ k, s.keyDown k = false) → t.pc = s.pc)
      | .row .cls | .row (.ldImm _ _) | .row (.addImm _ _) | .row (.ldReg _ _) | .row (.orReg _ _)
      | .row (.andReg _ _) | .row (.xorReg _ _) | .row (.addReg _ _) | .row (.sub _ _) | .row (.shr _ _)
      | .row (.subn _ _) | .row (.shl _ _) | .row (.ldI _) | .row (.rnd _ _) | .row (.drw _ _ _) | .row (.ldVxDt _)
      | .row (.ldDtVx _) | .row (.ldStVx _) | .row (.addI _) | .row (.ldF _) | .row (.ldB _) | .row (.stRegs _)
      | .row (.ldRegs _) => t.pc = s.pc + 2)

/-! ## What no instruction may touch -/

/-- Only a 2NNN and a 00EE that complete touch the call stack: every cycle that executes anything else, that faults or that
is stuck on a faulted core, whatever word stands at pc, leaves sp and all entries (R29, R30; decisions D2, D17, logs 1,
9). -/
def Obligations.OnlyCallAndReturnTouchTheStack : Prop :=
  ∀ s t : State, step s = .next t → (t.faulted ∨ (∀ nnn, s.fetched ≠ .row (.call nnn)) ∧ s.fetched ≠ .row .ret) →
    t.sp = s.sp ∧ ∀ k : Fin 16, t.stack[k.val] = s.stack[k.val]

/-- Only FX33 and FX55 write memory, FX33 its three bytes and FX55 its X + 1 bytes, under both settings of
BLOCK_XFER_OFFSET (decision D11, log 4), and no cycle touches another byte. -/
def Obligations.OnlyTheTwoStoresWriteMemory : Prop :=
  ∀ s t : State, step s = .next t →
    match s.fetched with
    | .row (.ldB _) => memSameOutside s.I.toNat 3 s t
    | .row (.stRegs x) => memSameOutside (s.I.toNat + s.config.blockXferOffset.val) (x.val + 1) s t
    | _ => ∀ a, t.readByte a = s.readByte a

/-- Only 00E0 and DXYN touch the framebuffer and the redraw flag, and no cycle clears the flag. -/
def Obligations.OnlyDisplayInstructionsTouchTheScreen : Prop :=
  ∀ s t : State, step s = .next t →
    (s.needsRedraw = true → t.needsRedraw = true) ∧
    (s.fetched ≠ .row .cls → (∀ x y n, s.fetched ≠ .row (.drw x y n)) →
      t.needsRedraw = s.needsRedraw ∧ ∀ idx, t.fb.read idx = s.fb.read idx)

/-- The core never changes a key by itself, nor a parameter of the machine (that a parameter is a field of the state is
the model's choice, log 2). -/
def Obligations.CoreNeverChangesKeysOrParameters : Prop :=
  ∀ s t : State, step s = .next t → (∀ k, t.keyDown k = s.keyDown k) ∧ t.config = s.config

/-- An instruction writes no register but its destinations, and VF as a flag only in the seven instructions that say so. -/
def Obligations.OnlyDestinationRegistersChange : Prop :=
  ∀ (i : Instr) (s t : State), exec i s = .next t → regsSameBut (registersWritten i) s t

/-- Nothing reads the sound timer: two states that differ in ST only run every instruction to states that differ in ST
only. That ST has no reader is the spec's decision D28 (log 25). For CXKK the two states are a machine and its copy with
the same draw counter, so they take the same draw: the model's choice (log 6), since R38 puts a draw under no law. -/
def Obligations.SoundTimerIsNeverRead : Prop :=
  ∀ (i : Instr) (s t : State) (v : Byte), exec i s = .next t →
    ∃ t', exec i (s.setST v) = .next t' ∧ sameBut [.ST] t t'

/-! ## Invariants -/

/-- Every reset state, the one with the default parameters among them, satisfies the invariant. Its memory and
framebuffer clauses speak of the model's canonical forms (logs 7, 8). -/
def Obligations.ResetSatisfiesTheInvariant : Prop :=
  State.reset.Inv ∧ ∀ (c : Config) (d : Nat), (State.resetWith c d).Inv

/-- Every cycle keeps the invariant: memory and framebuffer stay canonical, pc at most 0x10FE, stack entries in use
fetchable addresses, the latch consistent (the canonical forms are the model's choice, logs 7, 8, and the latch the spec's
decision D2, log 1). -/
def Obligations.EveryStepKeepsTheInvariant : Prop :=
  ∀ s t : State, s.Inv → step s = .next t → t.Inv

/-- Every move of the host keeps the invariant, from every state that has it, reachable or not; so every state a host can
bring the core to has it, and pc never exceeds 0x10FE (R28, an inference the spec marks as its own; the canonical forms,
the latch and the moves are logs 1, 7, 8, 22, 23). -/
def Obligations.EveryHostMoveKeepsTheInvariant : Prop :=
  (∀ (s t : State) (op : HostOp) (reply : HostReply), s.Inv → hostOp op s = .next (t, reply) → t.Inv) ∧
  ∀ s : State, Reachable s → s.Inv ∧ s.pc.toNat ≤ 0x10FE

/-! ## Registers and ALU -/

/-- R170, 6XKK: Vx is KK, pc advances, nothing else changes. -/
def Obligations.LoadImmediateSetsRegister : Prop :=
  ∀ (x : Reg) (kk : Byte) (s : State),
    wordReads (0x6000 + x.val * 0x100 + kk.toNat) (.ldImm x kk) ∧
    ∃ t, exec (.ldImm x kk) s = .next t ∧ t.readV x = kk ∧ t.pc = s.pc + 2 ∧
      regsSameBut [x] s t ∧ sameBut [.V, .pc] s t

/-- R171, 7XKK: Vx is the sum mod 256; VF is not touched unless it is the destination. -/
def Obligations.AddImmediateWrapsWithoutFlag : Prop :=
  ∀ (x : Reg) (kk : Byte) (s : State),
    wordReads (0x7000 + x.val * 0x100 + kk.toNat) (.addImm x kk) ∧
    ∃ t, exec (.addImm x kk) s = .next t ∧ (t.readV x).toNat = ((s.readV x).toNat + kk.toNat) % 256 ∧
      t.pc = s.pc + 2 ∧ regsSameBut [x] s t ∧ sameBut [.V, .pc] s t

/-- R172 to R175, 8XY0 to 8XY3: copy, OR, AND, XOR, bit by bit, VF untouched unless it is the destination. -/
def Obligations.CopyAndLogicSetRegister : Prop :=
  ∀ (x y : Reg) (s : State),
    (wordReads (0x8000 + x.val * 0x100 + y.val * 0x10) (.ldReg x y) ∧
      ∃ t, exec (.ldReg x y) s = .next t ∧ t.readV x = s.readV y ∧
        t.pc = s.pc + 2 ∧ regsSameBut [x] s t ∧ sameBut [.V, .pc] s t) ∧
    (wordReads (0x8001 + x.val * 0x100 + y.val * 0x10) (.orReg x y) ∧
      ∃ t, exec (.orReg x y) s = .next t ∧
        (∀ b, (t.readV x).getLsbD b = ((s.readV x).getLsbD b || (s.readV y).getLsbD b)) ∧
        t.pc = s.pc + 2 ∧ regsSameBut [x] s t ∧ sameBut [.V, .pc] s t) ∧
    (wordReads (0x8002 + x.val * 0x100 + y.val * 0x10) (.andReg x y) ∧
      ∃ t, exec (.andReg x y) s = .next t ∧
        (∀ b, (t.readV x).getLsbD b = ((s.readV x).getLsbD b && (s.readV y).getLsbD b)) ∧
        t.pc = s.pc + 2 ∧ regsSameBut [x] s t ∧ sameBut [.V, .pc] s t) ∧
    (wordReads (0x8003 + x.val * 0x100 + y.val * 0x10) (.xorReg x y) ∧
      ∃ t, exec (.xorReg x y) s = .next t ∧
        (∀ b, (t.readV x).getLsbD b = ((s.readV x).getLsbD b != (s.readV y).getLsbD b)) ∧
        t.pc = s.pc + 2 ∧ regsSameBut [x] s t ∧ sameBut [.V, .pc] s t)

/-- 8XY4, 8XY5, 8XY7: the result is kept mod 256 and VF is the carry, the missing borrow, or Vy > Vx, from the operands
before the instruction. With X = 0xF the flag stays and the result is lost (decision D10, log 17); that 8XY7 compares
the old operands is decision D27 and its 0 for equal operands is flagged by the spec (log 18). -/
def Obligations.AddAndSubtractReportInFlag : Prop :=
  ∀ (x y : Reg) (s : State),
    (wordReads (0x8004 + x.val * 0x100 + y.val * 0x10) (.addReg x y) ∧
      ∃ t, exec (.addReg x y) s = .next t ∧
        (x ≠ VF → (t.readV x).toNat = ((s.readV x).toNat + (s.readV y).toNat) % 256) ∧
        (t.readV VF).toNat = (if 255 < (s.readV x).toNat + (s.readV y).toNat then 1 else 0) ∧
        t.pc = s.pc + 2 ∧ regsSameBut [x, VF] s t ∧ sameBut [.V, .pc] s t) ∧
    (wordReads (0x8005 + x.val * 0x100 + y.val * 0x10) (.sub x y) ∧
      ∃ t, exec (.sub x y) s = .next t ∧
        (x ≠ VF → (t.readV x).toNat = ((s.readV x).toNat + 256 - (s.readV y).toNat) % 256) ∧
        (t.readV VF).toNat = (if (s.readV x).toNat < (s.readV y).toNat then 0 else 1) ∧
        t.pc = s.pc + 2 ∧ regsSameBut [x, VF] s t ∧ sameBut [.V, .pc] s t) ∧
    (wordReads (0x8007 + x.val * 0x100 + y.val * 0x10) (.subn x y) ∧
      ∃ t, exec (.subn x y) s = .next t ∧
        (x ≠ VF → (t.readV x).toNat = ((s.readV y).toNat + 256 - (s.readV x).toNat) % 256) ∧
        (t.readV VF).toNat = (if (s.readV x).toNat < (s.readV y).toNat then 1 else 0) ∧
        t.pc = s.pc + 2 ∧ regsSameBut [x, VF] s t ∧ sameBut [.V, .pc] s t)

/-- 8XY6 and 8XYE: VF is the bit shifted out, Vy is neither read nor written. With X = 0xF the shift acts on the flag just
written, so VF ends 0, or 0 or 2 (decision D10, log 17). -/
def Obligations.ShiftsMoveOneBitThroughFlag : Prop :=
  ∀ (x y : Reg) (s : State),
    (wordReads (0x8006 + x.val * 0x100 + y.val * 0x10) (.shr x y) ∧
      ∃ t, exec (.shr x y) s = .next t ∧
        (x ≠ VF → (t.readV x).toNat = (s.readV x).toNat / 2 ∧ (t.readV VF).toNat = (s.readV x).toNat % 2) ∧
        (x = VF → t.readV VF = 0) ∧
        t.pc = s.pc + 2 ∧ regsSameBut [x, VF] s t ∧ sameBut [.V, .pc] s t) ∧
    (wordReads (0x800E + x.val * 0x100 + y.val * 0x10) (.shl x y) ∧
      ∃ t, exec (.shl x y) s = .next t ∧
        (x ≠ VF → (t.readV x).toNat = (s.readV x).toNat * 2 % 256 ∧ (t.readV VF).toNat = (s.readV x).toNat / 128) ∧
        (x = VF → (t.readV VF).toNat = (s.readV VF).toNat / 128 * 2) ∧
        t.pc = s.pc + 2 ∧ regsSameBut [x, VF] s t ∧ sameBut [.V, .pc] s t)

/-- CXKK: Vx is the free value of this draw, masked with KK, whatever that value is, and the draw is used up (decision
D15, log 6). -/
def Obligations.RandomIsMaskedFreshDraw : Prop :=
  ∀ (x : Reg) (kk : Byte) (s : State),
    wordReads (0xC000 + x.val * 0x100 + kk.toNat) (.rnd x kk) ∧
    ∃ t, exec (.rnd x kk) s = .next t ∧ t.readV x = Config.randomByte s.draws &&& kk ∧ t.readV x &&& ~~~kk = 0 ∧
      t.draws = s.draws + 1 ∧ t.pc = s.pc + 2 ∧ regsSameBut [x] s t ∧ sameBut [.V, .pc, .draws] s t

/-! ## Control transfer -/

/-- 1NNN and BNNN: pc is NNN, or NNN + V0 not reduced to 12 bits. Any target is accepted, an odd one too (decision D26,
log 26), and one above 0xFFE, 1FFF among them, faults at the next cycle (decision D3, log 21). -/
def Obligations.JumpsSetPc : Prop :=
  ∀ (nnn : Addr12) (s : State),
    (wordReads (0x1000 + nnn.toNat) (.jp nnn) ∧
      ∃ t, exec (.jp nnn) s = .next t ∧ t.pc.toNat = nnn.toNat ∧ sameBut [.pc] s t ∧
        (s.FAULT.cause = none → 0xFFE < nnn.toNat → ∃ u, step t = .next u ∧ faultedWith .fetchOutOfBounds 0 t u)) ∧
    (wordReads (0xB000 + nnn.toNat) (.jpV0 nnn) ∧
      ∃ t, exec (.jpV0 nnn) s = .next t ∧ t.pc.toNat = nnn.toNat + (s.readV 0).toNat ∧ sameBut [.pc] s t ∧
        (s.FAULT.cause = none → 0xFFE < nnn.toNat + (s.readV 0).toNat →
          ∃ u, step t = .next u ∧ faultedWith .fetchOutOfBounds 0 t u))

/-- 2NNN: with room on the stack it pushes its own address and jumps; with none it faults (decisions D4, D17, logs 9,
21). -/
def Obligations.CallPushesItsOwnAddress : Prop :=
  ∀ (nnn : Addr12) (s : State),
    wordReads (0x2000 + nnn.toNat) (.call nnn) ∧
    (s.sp.val < 16 → ∃ t, exec (.call nnn) s = .next t ∧ t.pc.toNat = nnn.toNat ∧ t.sp.val = s.sp.val + 1 ∧
      (∀ k : Fin 16, t.stack[k.val] = if k.val = s.sp.val then s.pc else s.stack[k.val]) ∧
      sameBut [.pc, .sp, .stack] s t) ∧
    (s.sp.val = 16 → ∃ t, exec (.call nnn) s = .next t ∧
      faultedWith .stackOverflow (BitVec.ofNat 16 (0x2000 + nnn.toNat)) s t)

/-- 00EE: with an entry in use it pops it and continues two bytes after it, the entry keeping its value; with none it
faults (decisions D5, D17, logs 9, 21). -/
def Obligations.ReturnPopsAndStepsOverTheCall : Prop :=
  ∀ s : State,
    wordReads 0x00EE .ret ∧
    (∀ k : Fin 16, s.sp.val = k.val + 1 → ∃ t, exec .ret s = .next t ∧ t.pc = s.stack[k.val] + 2 ∧
      t.sp.val = k.val ∧ sameBut [.pc, .sp] s t) ∧
    (s.sp.val = 0 → ∃ t, exec .ret s = .next t ∧ faultedWith .stackUnderflow 0x00EE s t)

/-- A call with room on the stack, followed by a return, comes back to the instruction after the call with sp as it was
(decision D17, log 9). -/
def Obligations.CallThenReturnComesBack : Prop :=
  ∀ (s t u : State) (nnn : Addr12), s.sp.val < 16 → exec (.call nnn) s = .next t → exec .ret t = .next u →
    u.pc = s.pc + 2 ∧ u.sp = s.sp ∧ sameBut [.pc, .stack] s u ∧
    ∀ k : Fin 16, k.val < s.sp.val → u.stack[k.val] = s.stack[k.val]

/-- R143 and R144, 3XKK and 4XKK: pc + 4 if the register equals, or does not equal, KK, else pc + 2. -/
def Obligations.SkipsOnImmediate : Prop :=
  ∀ (x : Reg) (kk : Byte) (s : State),
    (wordReads (0x3000 + x.val * 0x100 + kk.toNat) (.seImm x kk) ∧
      ∃ t, exec (.seImm x kk) s = .next t ∧ sameBut [.pc] s t ∧
        t.pc = if s.readV x = kk then s.pc + 4 else s.pc + 2) ∧
    (wordReads (0x4000 + x.val * 0x100 + kk.toNat) (.sneImm x kk) ∧
      ∃ t, exec (.sneImm x kk) s = .next t ∧ sameBut [.pc] s t ∧
        t.pc = if s.readV x ≠ kk then s.pc + 4 else s.pc + 2)

/-- 5XY0 and 9XY0: pc + 4 if the registers are equal, or are not, else pc + 2; a last digit other than 0 is unmatched,
under the spec's decision D13 (log 20). -/
def Obligations.SkipsOnRegisters : Prop :=
  ∀ (x y : Reg) (s : State),
    (wordReads (0x5000 + x.val * 0x100 + y.val * 0x10) (.seReg x y) ∧
      ∃ t, exec (.seReg x y) s = .next t ∧ sameBut [.pc] s t ∧
        t.pc = if s.readV x = s.readV y then s.pc + 4 else s.pc + 2) ∧
    (wordReads (0x9000 + x.val * 0x100 + y.val * 0x10) (.sneReg x y) ∧
      ∃ t, exec (.sneReg x y) s = .next t ∧ sameBut [.pc] s t ∧
        t.pc = if s.readV x ≠ s.readV y then s.pc + 4 else s.pc + 2) ∧
    ∀ l : Fin 16, l ≠ 0 →
      decodeWord (BitVec.ofNat 16 (0x5000 + x.val * 0x100 + y.val * 0x10 + l.val)) = .error .unmatched ∧
      decodeWord (BitVec.ofNat 16 (0x9000 + x.val * 0x100 + y.val * 0x10 + l.val)) = .error .unmatched

/-! ## Address register and memory -/

/-- R200 and R202, ANNN and FX29: I is NNN, or five times the whole byte Vx. -/
def Obligations.IndexLoads : Prop :=
  ∀ (nnn : Addr12) (x : Reg) (s : State),
    (wordReads (0xA000 + nnn.toNat) (.ldI nnn) ∧
      ∃ t, exec (.ldI nnn) s = .next t ∧ t.I.toNat = nnn.toNat ∧ t.pc = s.pc + 2 ∧ sameBut [.I, .pc] s t) ∧
    (wordReads (0xF029 + x.val * 0x100) (.ldF x) ∧
      ∃ t, exec (.ldF x) s = .next t ∧ t.I.toNat = (s.readV x).toNat * 5 ∧ t.pc = s.pc + 2 ∧ sameBut [.I, .pc] s t)

/-- FX1E: I is the sum kept to 16 bits, and VF says whether the exact sum passes 0xFFF, with X = 0xF too (decisions D9,
D10, logs 17, 19). -/
def Obligations.AddToIndexFlagsPastMemory : Prop :=
  ∀ (x : Reg) (s : State),
    wordReads (0xF01E + x.val * 0x100) (.addI x) ∧
    ∃ t, exec (.addI x) s = .next t ∧ t.I.toNat = (s.I.toNat + (s.readV x).toNat) % 65536 ∧
      (t.readV VF).toNat = (if 0xFFF < s.I.toNat + (s.readV x).toNat then 1 else 0) ∧
      t.pc = s.pc + 2 ∧ regsSameBut [VF] s t ∧ sameBut [.I, .V, .pc] s t

/-- FX33: hundreds, tens and ones of Vx at I, I + 1, I + 2, no other byte written and I kept; above memory it faults and
writes nothing (decisions D6, D18, logs 15, 21). -/
def Obligations.StoreDecimalDigits : Prop :=
  ∀ (x : Reg) (s : State),
    wordReads (0xF033 + x.val * 0x100) (.ldB x) ∧
    (s.I.toNat + 2 ≤ 0xFFF → ∃ t, exec (.ldB x) s = .next t ∧
      (t.readByte s.I.toNat).toNat = (s.readV x).toNat / 100 ∧
      (t.readByte (s.I.toNat + 1)).toNat = (s.readV x).toNat / 10 % 10 ∧
      (t.readByte (s.I.toNat + 2)).toNat = (s.readV x).toNat % 10 ∧
      memSameOutside s.I.toNat 3 s t ∧ t.pc = s.pc + 2 ∧ sameBut [.mem, .pc] s t) ∧
    (0xFFF < s.I.toNat + 2 → ∃ t, exec (.ldB x) s = .next t ∧
      faultedWith .memoryOutOfBounds (BitVec.ofNat 16 (0xF033 + x.val * 0x100)) s t)

/-- FX55: V0 to Vx at I + BLOCK_XFER_OFFSET and up, no other byte written, I grows by X + 1; above memory it faults and
writes nothing. For both settings of the offset (decisions D6, D11, logs 4, 21). -/
def Obligations.StoreRegisterBlock : Prop :=
  ∀ (x : Reg) (s : State),
    wordReads (0xF055 + x.val * 0x100) (.stRegs x) ∧
    (s.I.toNat + s.config.blockXferOffset.val + x.val ≤ 0xFFF → ∃ t, exec (.stRegs x) s = .next t ∧
      (∀ k : Reg, k ≤ x → t.readByte (s.I.toNat + s.config.blockXferOffset.val + k.val) = s.readV k) ∧
      memSameOutside (s.I.toNat + s.config.blockXferOffset.val) (x.val + 1) s t ∧
      t.I.toNat = s.I.toNat + x.val + 1 ∧ t.pc = s.pc + 2 ∧ sameBut [.mem, .I, .pc] s t) ∧
    (0xFFF < s.I.toNat + s.config.blockXferOffset.val + x.val → ∃ t, exec (.stRegs x) s = .next t ∧
      faultedWith .memoryOutOfBounds (BitVec.ofNat 16 (0xF055 + x.val * 0x100)) s t)

/-- FX65: V0 to Vx from I + BLOCK_XFER_OFFSET and up, higher registers untouched, I grows by X + 1; above memory it faults
and loads nothing. For both settings of the offset (decisions D6, D11, logs 4, 21). -/
def Obligations.LoadRegisterBlock : Prop :=
  ∀ (x : Reg) (s : State),
    wordReads (0xF065 + x.val * 0x100) (.ldRegs x) ∧
    (s.I.toNat + s.config.blockXferOffset.val + x.val ≤ 0xFFF → ∃ t, exec (.ldRegs x) s = .next t ∧
      (∀ k : Reg, t.readV k =
        if k ≤ x then s.readByte (s.I.toNat + s.config.blockXferOffset.val + k.val) else s.readV k) ∧
      t.I.toNat = s.I.toNat + x.val + 1 ∧ t.pc = s.pc + 2 ∧ sameBut [.V, .I, .pc] s t) ∧
    (0xFFF < s.I.toNat + s.config.blockXferOffset.val + x.val → ∃ t, exec (.ldRegs x) s = .next t ∧
      faultedWith .memoryOutOfBounds (BitVec.ofNat 16 (0xF065 + x.val * 0x100)) s t)

/-- A block store followed by a block load of the same length, from any later state with the same starting I and the
memory the store left, returns the stored registers, under either setting of the offset (decision D11, log 4). -/
def Obligations.BlockStoreThenLoadReturnsRegisters : Prop :=
  ∀ (x : Reg) (s t v u : State), ¬ s.faulted → exec (.stRegs x) s = .next t → ¬ t.faulted →
    v.I = s.I → v.config = s.config → (∀ a, v.readByte a = t.readByte a) → exec (.ldRegs x) v = .next u →
    ∀ k : Reg, k ≤ x → u.readV k = s.readV k

/-- Stores are seen by the next fetch (R73): wherever FX55, FX33 or `LoadProgram` wrote the byte at the pc it leaves, that
byte is the high byte of the word fetched next, and wherever it wrote the byte after it, that is the low byte. A store
over half of the next word is covered too. The offset of FX55, the order of the digits of FX33 and loads between cycles
are the spec's decisions D11, D18 and D21 (logs 4, 15, 23). -/
def Obligations.NextFetchSeesEveryStore : Prop :=
  (∀ (x : Reg) (s t : State), ¬ s.faulted → exec (.stRegs x) s = .next t → ¬ t.faulted →
    ∀ k : Reg, k ≤ x →
      (t.pc.toNat = s.I.toNat + s.config.blockXferOffset.val + k.val →
        t.fetchWord.toNat / 0x100 = (s.readV k).toNat) ∧
      (t.pc.toNat + 1 = s.I.toNat + s.config.blockXferOffset.val + k.val →
        t.fetchWord.toNat % 0x100 = (s.readV k).toNat)) ∧
  (∀ (x : Reg) (s t : State), ¬ s.faulted → exec (.ldB x) s = .next t → ¬ t.faulted →
    ∀ k : Fin 3,
      (t.pc.toNat = s.I.toNat + k.val →
        t.fetchWord.toNat / 0x100 = (s.readV x).toNat / 10 ^ (2 - k.val) % 10) ∧
      (t.pc.toNat + 1 = s.I.toNat + k.val →
        t.fetchWord.toNat % 0x100 = (s.readV x).toNat / 10 ^ (2 - k.val) % 10)) ∧
  ∀ (image : List Byte) (s t : State), hostOp (.loadProgram image) s = .next (t, .loaded) →
    ∀ (i : Nat) (h : i < image.length),
      (t.pc.toNat = 0x200 + i → t.fetchWord.toNat / 0x100 = image[i].toNat) ∧
      (t.pc.toNat + 1 = 0x200 + i → t.fetchWord.toNat % 0x100 = image[i].toNat)

/-! ## Display -/

/-- 00E0: all 2048 cells are 0 and the redraw flag is set, even if nothing changed (decision D24, log 25); VF is not
touched. -/
def Obligations.ClearScreenClearsEveryCell : Prop :=
  ∀ s : State, wordReads 0x00E0 .cls ∧
    ∃ t, exec .cls s = .next t ∧ (∀ idx, t.fb.read idx = false) ∧ t.needsRedraw = true ∧ t.pc = s.pc + 2 ∧
      sameBut [.fb, .needsRedraw, .pc] s t

/-- DXYN with its rows in memory and its rectangle in the framebuffer, N = 0 included: exactly the cells under a set pixel
flip, VF says whether one of them was 1, the redraw flag is set, and Vx, Vy are read before VF is written. The index
formula, the spill into the next row and the bit order are the spec's decisions D7, D10, D23, D24, D30 (logs 14, 16,
17). -/
def Obligations.DrawFlipsExactlyTheSpritePixels : Prop :=
  ∀ (x y : Reg) (n : Fin 16) (s : State),
    wordReads (0xD000 + x.val * 0x100 + y.val * 0x10 + n.val) (.drw x y n) ∧
    ((n.val = 0 ∨ (s.I.toNat + n.val - 1 ≤ 0xFFF ∧
        ((s.readV y).toNat + n.val - 1) * 64 + (s.readV x).toNat + 7 ≤ 2047)) →
      ∃ t, exec (.drw x y n) s = .next t ∧
        (∀ idx, (spriteCovers s (s.readV x).toNat (s.readV y).toNat n.val idx → t.fb.read idx = !s.fb.read idx) ∧
          (¬ spriteCovers s (s.readV x).toNat (s.readV y).toNat n.val idx → t.fb.read idx = s.fb.read idx)) ∧
        ((∃ idx, spriteCovers s (s.readV x).toNat (s.readV y).toNat n.val idx ∧ s.fb.read idx = true) →
          t.readV VF = 1) ∧
        ((∀ idx, spriteCovers s (s.readV x).toNat (s.readV y).toNat n.val idx → s.fb.read idx = false) →
          t.readV VF = 0) ∧
        t.needsRedraw = true ∧ t.pc = s.pc + 2 ∧ regsSameBut [VF] s t ∧ sameBut [.fb, .V, .needsRedraw, .pc] s t)

/-- DXYN that reaches above memory, or with its rows in memory past the last cell, faults and draws nothing; memory is
tested first, and the whole rectangle counts whatever the bits are (decisions D6, D7, logs 16, 21). -/
def Obligations.DrawOutsideBoundsFaults : Prop :=
  ∀ (x y : Reg) (n : Fin 16) (s : State), n.val ≠ 0 →
    (0xFFF < s.I.toNat + n.val - 1 → ∃ t, exec (.drw x y n) s = .next t ∧
      faultedWith .memoryOutOfBounds (BitVec.ofNat 16 (0xD000 + x.val * 0x100 + y.val * 0x10 + n.val)) s t) ∧
    (s.I.toNat + n.val - 1 ≤ 0xFFF → 2047 < ((s.readV y).toNat + n.val - 1) * 64 + (s.readV x).toNat + 7 →
      ∃ t, exec (.drw x y n) s = .next t ∧
        faultedWith .framebufferOutOfBounds (BitVec.ofNat 16 (0xD000 + x.val * 0x100 + y.val * 0x10 + n.val)) s t)

/-- Drawing the same sprite twice at the same place restores every cell, and the second draw reports a collision if the
first lit a cell that was 0. X and Y are other than 0xF, which the first draw overwrites; the cells are those of decisions
D7 and D30 (logs 14, 16). -/
def Obligations.DrawingTwiceRestoresTheScreen : Prop :=
  ∀ (x y : Reg) (n : Fin 16) (s t u : State), x ≠ VF → y ≠ VF → ¬ s.faulted →
    exec (.drw x y n) s = .next t → ¬ t.faulted → exec (.drw x y n) t = .next u →
    (∀ idx, u.fb.read idx = s.fb.read idx) ∧
    ((∃ idx, spriteCovers s (s.readV x).toNat (s.readV y).toNat n.val idx ∧ s.fb.read idx = false) →
      u.readV VF = 1)

/-! ## Keypad and timers -/

/-- EX9E and EXA1: skip if the key Vx names is down, or is not; a value above 15 faults (decision D8, log 21). -/
def Obligations.KeySkipsTestTheNamedKey : Prop :=
  ∀ (x : Reg) (s : State),
    wordReads (0xE09E + x.val * 0x100) (.skp x) ∧ wordReads (0xE0A1 + x.val * 0x100) (.sknp x) ∧
    (∀ k : Fin 16, (s.readV x).toNat = k.val →
      (∃ t, exec (.skp x) s = .next t ∧ sameBut [.pc] s t ∧
        t.pc = if s.keyDown k = true then s.pc + 4 else s.pc + 2) ∧
      (∃ t, exec (.sknp x) s = .next t ∧ sameBut [.pc] s t ∧
        t.pc = if s.keyDown k = false then s.pc + 4 else s.pc + 2)) ∧
    (15 < (s.readV x).toNat →
      (∃ t, exec (.skp x) s = .next t ∧
        faultedWith .keyIndexOutOfRange (BitVec.ofNat 16 (0xE09E + x.val * 0x100)) s t) ∧
      (∃ t, exec (.sknp x) s = .next t ∧
        faultedWith .keyIndexOutOfRange (BitVec.ofNat 16 (0xE0A1 + x.val * 0x100)) s t))

/-- FX0A (R242): the lowest key that is down goes to Vx and pc advances; with none down nothing is written and pc stays,
so that a waiting cycle changes the timers only. That the timers fall in a waiting cycle is the spec's decision D14 (log
20). -/
def Obligations.WaitForKeyTakesTheLowest : Prop :=
  ∀ (x : Reg) (s : State),
    wordReads (0xF00A + x.val * 0x100) (.ldVxK x) ∧
    (∀ k : Fin 16, s.keyDown k = true → (∀ j < k, s.keyDown j = false) →
      ∃ t, exec (.ldVxK x) s = .next t ∧ (t.readV x).toNat = k.val ∧ t.pc = s.pc + 2 ∧
        regsSameBut [x] s t ∧ sameBut [.V, .pc] s t) ∧
    ((∀ k, s.keyDown k = false) → exec (.ldVxK x) s = .next s ∧
      (s.fetches → s.fetched = .row (.ldVxK x) →
        ∃ t, step s = .next t ∧ timersFell s t ∧ sameBut [.DT, .ST] s t))

/-- R243 and R244, FX07 and FX15: Vx is DT as it stood before this cycle's decrement, DT is Vx; and the same cycle's
post-step then lowers DT. -/
def Obligations.DelayTimerTransfers : Prop :=
  ∀ (x : Reg) (s : State),
    (wordReads (0xF007 + x.val * 0x100) (.ldVxDt x) ∧
      (∃ t, exec (.ldVxDt x) s = .next t ∧ t.readV x = s.DT ∧ t.pc = s.pc + 2 ∧
        regsSameBut [x] s t ∧ sameBut [.V, .pc] s t) ∧
      (s.fetches → s.fetched = .row (.ldVxDt x) →
        ∃ t, step s = .next t ∧ t.readV x = s.DT ∧ t.DT.toNat = s.DT.toNat - 1)) ∧
    (wordReads (0xF015 + x.val * 0x100) (.ldDtVx x) ∧
      (∃ t, exec (.ldDtVx x) s = .next t ∧ t.DT = s.readV x ∧ t.pc = s.pc + 2 ∧ sameBut [.DT, .pc] s t) ∧
      (s.fetches → s.fetched = .row (.ldDtVx x) →
        ∃ t, step s = .next t ∧ t.DT.toNat = (s.readV x).toNat - 1))

/-- FX18: ST is Vx, and the same cycle's post-step lowers it (that this step follows is decision D14, log 20). -/
def Obligations.SoundTimerIsSet : Prop :=
  ∀ (x : Reg) (s : State),
    wordReads (0xF018 + x.val * 0x100) (.ldStVx x) ∧
    (∃ t, exec (.ldStVx x) s = .next t ∧ t.ST = s.readV x ∧ t.pc = s.pc + 2 ∧ sameBut [.ST, .pc] s t) ∧
    (s.fetches → s.fetched = .row (.ldStVx x) →
      ∃ t, step s = .next t ∧ t.ST.toNat = (s.readV x).toNat - 1)

/-! ## Host moves and runs -/

/-- `Reset` gives the state of R39 whatever came before, an empty latch included (decision D2, log 1). The parameters stay
and the draws go on (logs 2, 6). -/
def Obligations.ResetGivesTheListedState : Prop :=
  ∀ s : State, ∃ t, hostOp .reset s = .next (t, .nothing) ∧
    (∀ (a : Nat) (h : a < 80), t.readByte a = s.config.font[a]) ∧ (∀ a, 80 ≤ a → t.readByte a = 0) ∧
    (∀ r, t.readV r = 0) ∧ t.I = 0 ∧ t.pc = 0x200 ∧ t.sp.val = 0 ∧ (∀ k : Fin 16, t.stack[k.val] = 0) ∧
    t.DT = 0 ∧ t.ST = 0 ∧ (∀ k, t.keyDown k = false) ∧ (∀ idx, t.fb.read idx = false) ∧ t.needsRedraw = true ∧
    t.FAULT.code = 0 ∧ t.FAULT.pc = 0 ∧ t.FAULT.opcode = 0 ∧ t.config = s.config ∧ t.draws = s.draws

/-- `LoadProgram` (R306): an image of L bytes with L + 0x200 at least 4096 is too large and changes nothing; any other is
copied byte by byte to 0x200 and up, and nothing else changes. A load that fails to get its bytes changes nothing. That
3584 bytes are too large (conflict C2) and that a load is admitted in every state are the spec's decision D21 (log 23). -/
def Obligations.LoadProgramCopiesTheImage : Prop :=
  ∀ (image : List Byte) (s : State),
    (4096 ≤ image.length + 0x200 → hostOp (.loadProgram image) s = .next (s, .programTooLarge)) ∧
    (image.length + 0x200 < 4096 → ∃ t, hostOp (.loadProgram image) s = .next (t, .loaded) ∧
      (∀ (i : Nat) (h : i < image.length), t.readByte (0x200 + i) = image[i]) ∧
      memSameOutside 0x200 image.length s t ∧ sameBut [.mem] s t) ∧
    hostOp .loadFails s = .next (s, .loadFailed)

/-- `SetKeyState`: the named key takes the value and nothing else changes; a key above 15 is refused by name (decision
D22, log 22). -/
def Obligations.SetKeyStateWritesOneKey : Prop :=
  ∀ (k : Nat) (pressed : Bool) (s : State),
    (k < 16 → ∃ t, hostOp (.setKeyState k pressed) s = .next (t, .nothing) ∧
      (∀ j : Fin 16, t.keyDown j = if j.val = k then pressed else s.keyDown j) ∧ sameBut [.key] s t) ∧
    (15 < k → hostOp (.setKeyState k pressed) s = .refused .keyOutsideKeypad)

/-- R276, R277 and R278: reading the flag and the 2048 cells changes nothing, clearing the flag changes only it, and no
other move makes the flag false. -/
def Obligations.DisplayAccessorsAndRedrawFlag : Prop :=
  ∀ s : State,
    hostOp .needsRedraw s = .next (s, .redraw s.needsRedraw) ∧
    (∃ t, hostOp .clearRedrawFlag s = .next (t, .nothing) ∧ t.needsRedraw = false ∧ sameBut [.needsRedraw] s t) ∧
    (∃ cells, hostOp .getFramebuffer s = .next (s, .pixels cells) ∧ cells.length = 2048 ∧
      ∀ (idx : Nat) (h : idx < cells.length), cells[idx] = if s.fb.read idx = true then 1 else 0) ∧
    ∀ (op : HostOp) (t : State) (reply : HostReply), hostOp op s = .next (t, reply) →
      s.needsRedraw = true → t.needsRedraw = false → op = .clearRedrawFlag

/-- Reading `FAULT` returns the cause's code, the pc and the word that are latched and changes nothing (R279), the codes
being those of R261, 0 where no fault is latched. Only `Reset` leaves the faulted state: every other move keeps the latch
as it is. The latch and its codes are the spec's decision D2 (log 1). -/
def Obligations.HostReadsFaultAndOnlyResetClearsIt : Prop :=
  (∀ s : State, ∃ code, hostOp .readFault s = .next (s, .fault code s.FAULT.pc s.FAULT.opcode) ∧
    (s.FAULT.cause = none → code = 0) ∧ (s.FAULT.cause = some .fetchOutOfBounds → code = 1) ∧
    (s.FAULT.cause = some .stackOverflow → code = 2) ∧ (s.FAULT.cause = some .stackUnderflow → code = 3) ∧
    (s.FAULT.cause = some .memoryOutOfBounds → code = 4) ∧
    (s.FAULT.cause = some .framebufferOutOfBounds → code = 5) ∧
    (s.FAULT.cause = some .keyIndexOutOfRange → code = 6)) ∧
  ∀ (op : HostOp) (s t : State) (reply : HostReply), s.faulted → hostOp op s = .next (t, reply) →
    (op = .reset → t.FAULT = FaultLatch.clear) ∧ (op ≠ .reset → t.FAULT = s.FAULT)

/-- Before the first `Reset` no other move is admitted (decision D20, log 22). -/
def Obligations.OnlyResetBeforeTheFirstReset : Prop :=
  ∀ (c : Config) (d : Nat) (op : HostOp),
    (op = .reset → hostOpBeforeReset c d op = .next (State.resetWith c d, .nothing)) ∧
    (op ≠ .reset → hostOpBeforeReset c d op = .refused .beforeFirstReset)

/-- The states that repeat for ever (R126): parked on a self-jump a cycle changes nothing; on a dead word or waiting for a
key it changes only the timers, and nothing once both are 0. Naming these states is the spec's decision D29 (log 28), and
that a dead word holds pc its decisions D12 and D13 (log 20). -/
def Obligations.RestingStatesRepeat : Prop :=
  (∀ s : State, s.parked → step s = .next s) ∧
  ∀ s : State, s.onDeadWord ∨ s.waitingForKey →
    ∃ t, step s = .next t ∧ timersFell s t ∧ sameBut [.DT, .ST] s t ∧ (s.DT = 0 → s.ST = 0 → t = s)
end

