-- ==== Sys2Proof/Laws/State.lean ====
section
/-! SUPPORT. One lemma per field per update of `State`, true by rfl. -/

namespace Sys2Proof.Machine

variable (s : State)

/-! ### writeBytes -/

@[simp] theorem State.writeBytes_mem (a : Nat) (bs : List Byte) : (s.writeBytes a bs).mem = s.mem.writeAll s.config.resetByte a bs := rfl
@[simp] theorem State.writeBytes_V (a : Nat) (bs : List Byte) : (s.writeBytes a bs).V = s.V := rfl
@[simp] theorem State.writeBytes_I (a : Nat) (bs : List Byte) : (s.writeBytes a bs).I = s.I := rfl
@[simp] theorem State.writeBytes_pc (a : Nat) (bs : List Byte) : (s.writeBytes a bs).pc = s.pc := rfl
@[simp] theorem State.writeBytes_stack (a : Nat) (bs : List Byte) : (s.writeBytes a bs).stack = s.stack := rfl
@[simp] theorem State.writeBytes_sp (a : Nat) (bs : List Byte) : (s.writeBytes a bs).sp = s.sp := rfl
@[simp] theorem State.writeBytes_DT (a : Nat) (bs : List Byte) : (s.writeBytes a bs).DT = s.DT := rfl
@[simp] theorem State.writeBytes_ST (a : Nat) (bs : List Byte) : (s.writeBytes a bs).ST = s.ST := rfl
@[simp] theorem State.writeBytes_key (a : Nat) (bs : List Byte) : (s.writeBytes a bs).key = s.key := rfl
@[simp] theorem State.writeBytes_fb (a : Nat) (bs : List Byte) : (s.writeBytes a bs).fb = s.fb := rfl
@[simp] theorem State.writeBytes_needsRedraw (a : Nat) (bs : List Byte) : (s.writeBytes a bs).needsRedraw = s.needsRedraw := rfl
@[simp] theorem State.writeBytes_FAULT (a : Nat) (bs : List Byte) : (s.writeBytes a bs).FAULT = s.FAULT := rfl
@[simp] theorem State.writeBytes_config (a : Nat) (bs : List Byte) : (s.writeBytes a bs).config = s.config := rfl
@[simp] theorem State.writeBytes_draws (a : Nat) (bs : List Byte) : (s.writeBytes a bs).draws = s.draws := rfl

/-! ### writeV -/

@[simp] theorem State.writeV_mem (x : Reg) (b : Byte) : (s.writeV x b).mem = s.mem := rfl
@[simp] theorem State.writeV_V (x : Reg) (b : Byte) : (s.writeV x b).V = s.V.set x.val b := rfl
@[simp] theorem State.writeV_I (x : Reg) (b : Byte) : (s.writeV x b).I = s.I := rfl
@[simp] theorem State.writeV_pc (x : Reg) (b : Byte) : (s.writeV x b).pc = s.pc := rfl
@[simp] theorem State.writeV_stack (x : Reg) (b : Byte) : (s.writeV x b).stack = s.stack := rfl
@[simp] theorem State.writeV_sp (x : Reg) (b : Byte) : (s.writeV x b).sp = s.sp := rfl
@[simp] theorem State.writeV_DT (x : Reg) (b : Byte) : (s.writeV x b).DT = s.DT := rfl
@[simp] theorem State.writeV_ST (x : Reg) (b : Byte) : (s.writeV x b).ST = s.ST := rfl
@[simp] theorem State.writeV_key (x : Reg) (b : Byte) : (s.writeV x b).key = s.key := rfl
@[simp] theorem State.writeV_fb (x : Reg) (b : Byte) : (s.writeV x b).fb = s.fb := rfl
@[simp] theorem State.writeV_needsRedraw (x : Reg) (b : Byte) : (s.writeV x b).needsRedraw = s.needsRedraw := rfl
@[simp] theorem State.writeV_FAULT (x : Reg) (b : Byte) : (s.writeV x b).FAULT = s.FAULT := rfl
@[simp] theorem State.writeV_config (x : Reg) (b : Byte) : (s.writeV x b).config = s.config := rfl
@[simp] theorem State.writeV_draws (x : Reg) (b : Byte) : (s.writeV x b).draws = s.draws := rfl

/-! ### setVF -/

@[simp] theorem State.setVF_mem (c : Bool) : (s.setVF c).mem = s.mem := rfl
@[simp] theorem State.setVF_V (c : Bool) : (s.setVF c).V = s.V.set VF.val (flagByte c) := rfl
@[simp] theorem State.setVF_I (c : Bool) : (s.setVF c).I = s.I := rfl
@[simp] theorem State.setVF_pc (c : Bool) : (s.setVF c).pc = s.pc := rfl
@[simp] theorem State.setVF_stack (c : Bool) : (s.setVF c).stack = s.stack := rfl
@[simp] theorem State.setVF_sp (c : Bool) : (s.setVF c).sp = s.sp := rfl
@[simp] theorem State.setVF_DT (c : Bool) : (s.setVF c).DT = s.DT := rfl
@[simp] theorem State.setVF_ST (c : Bool) : (s.setVF c).ST = s.ST := rfl
@[simp] theorem State.setVF_key (c : Bool) : (s.setVF c).key = s.key := rfl
@[simp] theorem State.setVF_fb (c : Bool) : (s.setVF c).fb = s.fb := rfl
@[simp] theorem State.setVF_needsRedraw (c : Bool) : (s.setVF c).needsRedraw = s.needsRedraw := rfl
@[simp] theorem State.setVF_FAULT (c : Bool) : (s.setVF c).FAULT = s.FAULT := rfl
@[simp] theorem State.setVF_config (c : Bool) : (s.setVF c).config = s.config := rfl
@[simp] theorem State.setVF_draws (c : Bool) : (s.setVF c).draws = s.draws := rfl

/-! ### setI -/

@[simp] theorem State.setI_mem (v : Word) : (s.setI v).mem = s.mem := rfl
@[simp] theorem State.setI_V (v : Word) : (s.setI v).V = s.V := rfl
@[simp] theorem State.setI_I (v : Word) : (s.setI v).I = v := rfl
@[simp] theorem State.setI_pc (v : Word) : (s.setI v).pc = s.pc := rfl
@[simp] theorem State.setI_stack (v : Word) : (s.setI v).stack = s.stack := rfl
@[simp] theorem State.setI_sp (v : Word) : (s.setI v).sp = s.sp := rfl
@[simp] theorem State.setI_DT (v : Word) : (s.setI v).DT = s.DT := rfl
@[simp] theorem State.setI_ST (v : Word) : (s.setI v).ST = s.ST := rfl
@[simp] theorem State.setI_key (v : Word) : (s.setI v).key = s.key := rfl
@[simp] theorem State.setI_fb (v : Word) : (s.setI v).fb = s.fb := rfl
@[simp] theorem State.setI_needsRedraw (v : Word) : (s.setI v).needsRedraw = s.needsRedraw := rfl
@[simp] theorem State.setI_FAULT (v : Word) : (s.setI v).FAULT = s.FAULT := rfl
@[simp] theorem State.setI_config (v : Word) : (s.setI v).config = s.config := rfl
@[simp] theorem State.setI_draws (v : Word) : (s.setI v).draws = s.draws := rfl

/-! ### setPc -/

@[simp] theorem State.setPc_mem (v : Word) : (s.setPc v).mem = s.mem := rfl
@[simp] theorem State.setPc_V (v : Word) : (s.setPc v).V = s.V := rfl
@[simp] theorem State.setPc_I (v : Word) : (s.setPc v).I = s.I := rfl
@[simp] theorem State.setPc_pc (v : Word) : (s.setPc v).pc = v := rfl
@[simp] theorem State.setPc_stack (v : Word) : (s.setPc v).stack = s.stack := rfl
@[simp] theorem State.setPc_sp (v : Word) : (s.setPc v).sp = s.sp := rfl
@[simp] theorem State.setPc_DT (v : Word) : (s.setPc v).DT = s.DT := rfl
@[simp] theorem State.setPc_ST (v : Word) : (s.setPc v).ST = s.ST := rfl
@[simp] theorem State.setPc_key (v : Word) : (s.setPc v).key = s.key := rfl
@[simp] theorem State.setPc_fb (v : Word) : (s.setPc v).fb = s.fb := rfl
@[simp] theorem State.setPc_needsRedraw (v : Word) : (s.setPc v).needsRedraw = s.needsRedraw := rfl
@[simp] theorem State.setPc_FAULT (v : Word) : (s.setPc v).FAULT = s.FAULT := rfl
@[simp] theorem State.setPc_config (v : Word) : (s.setPc v).config = s.config := rfl
@[simp] theorem State.setPc_draws (v : Word) : (s.setPc v).draws = s.draws := rfl

/-! ### advance -/

@[simp] theorem State.advance_mem : s.advance.mem = s.mem := rfl
@[simp] theorem State.advance_V : s.advance.V = s.V := rfl
@[simp] theorem State.advance_I : s.advance.I = s.I := rfl
@[simp] theorem State.advance_pc : s.advance.pc = s.pc + 2 := rfl
@[simp] theorem State.advance_stack : s.advance.stack = s.stack := rfl
@[simp] theorem State.advance_sp : s.advance.sp = s.sp := rfl
@[simp] theorem State.advance_DT : s.advance.DT = s.DT := rfl
@[simp] theorem State.advance_ST : s.advance.ST = s.ST := rfl
@[simp] theorem State.advance_key : s.advance.key = s.key := rfl
@[simp] theorem State.advance_fb : s.advance.fb = s.fb := rfl
@[simp] theorem State.advance_needsRedraw : s.advance.needsRedraw = s.needsRedraw := rfl
@[simp] theorem State.advance_FAULT : s.advance.FAULT = s.FAULT := rfl
@[simp] theorem State.advance_config : s.advance.config = s.config := rfl
@[simp] theorem State.advance_draws : s.advance.draws = s.draws := rfl

/-! ### skipIf -/

@[simp] theorem State.skipIf_mem (c : Bool) : (s.skipIf c).mem = s.mem := rfl
@[simp] theorem State.skipIf_V (c : Bool) : (s.skipIf c).V = s.V := rfl
@[simp] theorem State.skipIf_I (c : Bool) : (s.skipIf c).I = s.I := rfl
@[simp] theorem State.skipIf_pc (c : Bool) : (s.skipIf c).pc = if c then s.pc + 4 else s.pc + 2 := rfl
@[simp] theorem State.skipIf_stack (c : Bool) : (s.skipIf c).stack = s.stack := rfl
@[simp] theorem State.skipIf_sp (c : Bool) : (s.skipIf c).sp = s.sp := rfl
@[simp] theorem State.skipIf_DT (c : Bool) : (s.skipIf c).DT = s.DT := rfl
@[simp] theorem State.skipIf_ST (c : Bool) : (s.skipIf c).ST = s.ST := rfl
@[simp] theorem State.skipIf_key (c : Bool) : (s.skipIf c).key = s.key := rfl
@[simp] theorem State.skipIf_fb (c : Bool) : (s.skipIf c).fb = s.fb := rfl
@[simp] theorem State.skipIf_needsRedraw (c : Bool) : (s.skipIf c).needsRedraw = s.needsRedraw := rfl
@[simp] theorem State.skipIf_FAULT (c : Bool) : (s.skipIf c).FAULT = s.FAULT := rfl
@[simp] theorem State.skipIf_config (c : Bool) : (s.skipIf c).config = s.config := rfl
@[simp] theorem State.skipIf_draws (c : Bool) : (s.skipIf c).draws = s.draws := rfl

/-! ### setDT -/

@[simp] theorem State.setDT_mem (v : Byte) : (s.setDT v).mem = s.mem := rfl
@[simp] theorem State.setDT_V (v : Byte) : (s.setDT v).V = s.V := rfl
@[simp] theorem State.setDT_I (v : Byte) : (s.setDT v).I = s.I := rfl
@[simp] theorem State.setDT_pc (v : Byte) : (s.setDT v).pc = s.pc := rfl
@[simp] theorem State.setDT_stack (v : Byte) : (s.setDT v).stack = s.stack := rfl
@[simp] theorem State.setDT_sp (v : Byte) : (s.setDT v).sp = s.sp := rfl
@[simp] theorem State.setDT_DT (v : Byte) : (s.setDT v).DT = v := rfl
@[simp] theorem State.setDT_ST (v : Byte) : (s.setDT v).ST = s.ST := rfl
@[simp] theorem State.setDT_key (v : Byte) : (s.setDT v).key = s.key := rfl
@[simp] theorem State.setDT_fb (v : Byte) : (s.setDT v).fb = s.fb := rfl
@[simp] theorem State.setDT_needsRedraw (v : Byte) : (s.setDT v).needsRedraw = s.needsRedraw := rfl
@[simp] theorem State.setDT_FAULT (v : Byte) : (s.setDT v).FAULT = s.FAULT := rfl
@[simp] theorem State.setDT_config (v : Byte) : (s.setDT v).config = s.config := rfl
@[simp] theorem State.setDT_draws (v : Byte) : (s.setDT v).draws = s.draws := rfl

/-! ### setST -/

@[simp] theorem State.setST_mem (v : Byte) : (s.setST v).mem = s.mem := rfl
@[simp] theorem State.setST_V (v : Byte) : (s.setST v).V = s.V := rfl
@[simp] theorem State.setST_I (v : Byte) : (s.setST v).I = s.I := rfl
@[simp] theorem State.setST_pc (v : Byte) : (s.setST v).pc = s.pc := rfl
@[simp] theorem State.setST_stack (v : Byte) : (s.setST v).stack = s.stack := rfl
@[simp] theorem State.setST_sp (v : Byte) : (s.setST v).sp = s.sp := rfl
@[simp] theorem State.setST_DT (v : Byte) : (s.setST v).DT = s.DT := rfl
@[simp] theorem State.setST_ST (v : Byte) : (s.setST v).ST = v := rfl
@[simp] theorem State.setST_key (v : Byte) : (s.setST v).key = s.key := rfl
@[simp] theorem State.setST_fb (v : Byte) : (s.setST v).fb = s.fb := rfl
@[simp] theorem State.setST_needsRedraw (v : Byte) : (s.setST v).needsRedraw = s.needsRedraw := rfl
@[simp] theorem State.setST_FAULT (v : Byte) : (s.setST v).FAULT = s.FAULT := rfl
@[simp] theorem State.setST_config (v : Byte) : (s.setST v).config = s.config := rfl
@[simp] theorem State.setST_draws (v : Byte) : (s.setST v).draws = s.draws := rfl

/-! ### tick -/

@[simp] theorem State.tick_mem : s.tick.mem = s.mem := rfl
@[simp] theorem State.tick_V : s.tick.V = s.V := rfl
@[simp] theorem State.tick_I : s.tick.I = s.I := rfl
@[simp] theorem State.tick_pc : s.tick.pc = s.pc := rfl
@[simp] theorem State.tick_stack : s.tick.stack = s.stack := rfl
@[simp] theorem State.tick_sp : s.tick.sp = s.sp := rfl
@[simp] theorem State.tick_DT : s.tick.DT = countDown s.DT := rfl
@[simp] theorem State.tick_ST : s.tick.ST = countDown s.ST := rfl
@[simp] theorem State.tick_key : s.tick.key = s.key := rfl
@[simp] theorem State.tick_fb : s.tick.fb = s.fb := rfl
@[simp] theorem State.tick_needsRedraw : s.tick.needsRedraw = s.needsRedraw := rfl
@[simp] theorem State.tick_FAULT : s.tick.FAULT = s.FAULT := rfl
@[simp] theorem State.tick_config : s.tick.config = s.config := rfl
@[simp] theorem State.tick_draws : s.tick.draws = s.draws := rfl

/-! ### setFb -/

@[simp] theorem State.setFb_mem (fb : Framebuffer) : (s.setFb fb).mem = s.mem := rfl
@[simp] theorem State.setFb_V (fb : Framebuffer) : (s.setFb fb).V = s.V := rfl
@[simp] theorem State.setFb_I (fb : Framebuffer) : (s.setFb fb).I = s.I := rfl
@[simp] theorem State.setFb_pc (fb : Framebuffer) : (s.setFb fb).pc = s.pc := rfl
@[simp] theorem State.setFb_stack (fb : Framebuffer) : (s.setFb fb).stack = s.stack := rfl
@[simp] theorem State.setFb_sp (fb : Framebuffer) : (s.setFb fb).sp = s.sp := rfl
@[simp] theorem State.setFb_DT (fb : Framebuffer) : (s.setFb fb).DT = s.DT := rfl
@[simp] theorem State.setFb_ST (fb : Framebuffer) : (s.setFb fb).ST = s.ST := rfl
@[simp] theorem State.setFb_key (fb : Framebuffer) : (s.setFb fb).key = s.key := rfl
@[simp] theorem State.setFb_fb (fb : Framebuffer) : (s.setFb fb).fb = fb := rfl
@[simp] theorem State.setFb_needsRedraw (fb : Framebuffer) : (s.setFb fb).needsRedraw = s.needsRedraw := rfl
@[simp] theorem State.setFb_FAULT (fb : Framebuffer) : (s.setFb fb).FAULT = s.FAULT := rfl
@[simp] theorem State.setFb_config (fb : Framebuffer) : (s.setFb fb).config = s.config := rfl
@[simp] theorem State.setFb_draws (fb : Framebuffer) : (s.setFb fb).draws = s.draws := rfl

/-! ### setNeedsRedraw -/

@[simp] theorem State.setNeedsRedraw_mem (b : Bool) : (s.setNeedsRedraw b).mem = s.mem := rfl
@[simp] theorem State.setNeedsRedraw_V (b : Bool) : (s.setNeedsRedraw b).V = s.V := rfl
@[simp] theorem State.setNeedsRedraw_I (b : Bool) : (s.setNeedsRedraw b).I = s.I := rfl
@[simp] theorem State.setNeedsRedraw_pc (b : Bool) : (s.setNeedsRedraw b).pc = s.pc := rfl
@[simp] theorem State.setNeedsRedraw_stack (b : Bool) : (s.setNeedsRedraw b).stack = s.stack := rfl
@[simp] theorem State.setNeedsRedraw_sp (b : Bool) : (s.setNeedsRedraw b).sp = s.sp := rfl
@[simp] theorem State.setNeedsRedraw_DT (b : Bool) : (s.setNeedsRedraw b).DT = s.DT := rfl
@[simp] theorem State.setNeedsRedraw_ST (b : Bool) : (s.setNeedsRedraw b).ST = s.ST := rfl
@[simp] theorem State.setNeedsRedraw_key (b : Bool) : (s.setNeedsRedraw b).key = s.key := rfl
@[simp] theorem State.setNeedsRedraw_fb (b : Bool) : (s.setNeedsRedraw b).fb = s.fb := rfl
@[simp] theorem State.setNeedsRedraw_needsRedraw (b : Bool) : (s.setNeedsRedraw b).needsRedraw = b := rfl
@[simp] theorem State.setNeedsRedraw_FAULT (b : Bool) : (s.setNeedsRedraw b).FAULT = s.FAULT := rfl
@[simp] theorem State.setNeedsRedraw_config (b : Bool) : (s.setNeedsRedraw b).config = s.config := rfl
@[simp] theorem State.setNeedsRedraw_draws (b : Bool) : (s.setNeedsRedraw b).draws = s.draws := rfl

/-! ### countDraw -/

@[simp] theorem State.countDraw_mem : s.countDraw.mem = s.mem := rfl
@[simp] theorem State.countDraw_V : s.countDraw.V = s.V := rfl
@[simp] theorem State.countDraw_I : s.countDraw.I = s.I := rfl
@[simp] theorem State.countDraw_pc : s.countDraw.pc = s.pc := rfl
@[simp] theorem State.countDraw_stack : s.countDraw.stack = s.stack := rfl
@[simp] theorem State.countDraw_sp : s.countDraw.sp = s.sp := rfl
@[simp] theorem State.countDraw_DT : s.countDraw.DT = s.DT := rfl
@[simp] theorem State.countDraw_ST : s.countDraw.ST = s.ST := rfl
@[simp] theorem State.countDraw_key : s.countDraw.key = s.key := rfl
@[simp] theorem State.countDraw_fb : s.countDraw.fb = s.fb := rfl
@[simp] theorem State.countDraw_needsRedraw : s.countDraw.needsRedraw = s.needsRedraw := rfl
@[simp] theorem State.countDraw_FAULT : s.countDraw.FAULT = s.FAULT := rfl
@[simp] theorem State.countDraw_config : s.countDraw.config = s.config := rfl
@[simp] theorem State.countDraw_draws : s.countDraw.draws = s.draws + 1 := rfl

/-! ### latch -/

@[simp] theorem State.latch_mem (r : Raise) (w : Word) : (s.latch r w).mem = s.mem := rfl
@[simp] theorem State.latch_V (r : Raise) (w : Word) : (s.latch r w).V = s.V := rfl
@[simp] theorem State.latch_I (r : Raise) (w : Word) : (s.latch r w).I = s.I := rfl
@[simp] theorem State.latch_pc (r : Raise) (w : Word) : (s.latch r w).pc = s.pc := rfl
@[simp] theorem State.latch_stack (r : Raise) (w : Word) : (s.latch r w).stack = s.stack := rfl
@[simp] theorem State.latch_sp (r : Raise) (w : Word) : (s.latch r w).sp = s.sp := rfl
@[simp] theorem State.latch_DT (r : Raise) (w : Word) : (s.latch r w).DT = s.DT := rfl
@[simp] theorem State.latch_ST (r : Raise) (w : Word) : (s.latch r w).ST = s.ST := rfl
@[simp] theorem State.latch_key (r : Raise) (w : Word) : (s.latch r w).key = s.key := rfl
@[simp] theorem State.latch_fb (r : Raise) (w : Word) : (s.latch r w).fb = s.fb := rfl
@[simp] theorem State.latch_needsRedraw (r : Raise) (w : Word) : (s.latch r w).needsRedraw = s.needsRedraw := rfl
@[simp] theorem State.latch_FAULT (r : Raise) (w : Word) : (s.latch r w).FAULT = ⟨some r.cause, s.pc, w⟩ := rfl
@[simp] theorem State.latch_config (r : Raise) (w : Word) : (s.latch r w).config = s.config := rfl
@[simp] theorem State.latch_draws (r : Raise) (w : Word) : (s.latch r w).draws = s.draws := rfl

/-! ### setKey -/

@[simp] theorem State.setKey_mem (k : Fin 16) (b : Bool) : (s.setKey k b).mem = s.mem := rfl
@[simp] theorem State.setKey_V (k : Fin 16) (b : Bool) : (s.setKey k b).V = s.V := rfl
@[simp] theorem State.setKey_I (k : Fin 16) (b : Bool) : (s.setKey k b).I = s.I := rfl
@[simp] theorem State.setKey_pc (k : Fin 16) (b : Bool) : (s.setKey k b).pc = s.pc := rfl
@[simp] theorem State.setKey_stack (k : Fin 16) (b : Bool) : (s.setKey k b).stack = s.stack := rfl
@[simp] theorem State.setKey_sp (k : Fin 16) (b : Bool) : (s.setKey k b).sp = s.sp := rfl
@[simp] theorem State.setKey_DT (k : Fin 16) (b : Bool) : (s.setKey k b).DT = s.DT := rfl
@[simp] theorem State.setKey_ST (k : Fin 16) (b : Bool) : (s.setKey k b).ST = s.ST := rfl
@[simp] theorem State.setKey_key (k : Fin 16) (b : Bool) : (s.setKey k b).key = s.key.set k.val b := rfl
@[simp] theorem State.setKey_fb (k : Fin 16) (b : Bool) : (s.setKey k b).fb = s.fb := rfl
@[simp] theorem State.setKey_needsRedraw (k : Fin 16) (b : Bool) : (s.setKey k b).needsRedraw = s.needsRedraw := rfl
@[simp] theorem State.setKey_FAULT (k : Fin 16) (b : Bool) : (s.setKey k b).FAULT = s.FAULT := rfl
@[simp] theorem State.setKey_config (k : Fin 16) (b : Bool) : (s.setKey k b).config = s.config := rfl
@[simp] theorem State.setKey_draws (k : Fin 16) (b : Bool) : (s.setKey k b).draws = s.draws := rfl

/-! ### loadImage -/

@[simp] theorem State.loadImage_mem (image : List Byte) : (s.loadImage image).mem = s.mem.writeAll s.config.resetByte loadBase image := rfl
@[simp] theorem State.loadImage_V (image : List Byte) : (s.loadImage image).V = s.V := rfl
@[simp] theorem State.loadImage_I (image : List Byte) : (s.loadImage image).I = s.I := rfl
@[simp] theorem State.loadImage_pc (image : List Byte) : (s.loadImage image).pc = s.pc := rfl
@[simp] theorem State.loadImage_stack (image : List Byte) : (s.loadImage image).stack = s.stack := rfl
@[simp] theorem State.loadImage_sp (image : List Byte) : (s.loadImage image).sp = s.sp := rfl
@[simp] theorem State.loadImage_DT (image : List Byte) : (s.loadImage image).DT = s.DT := rfl
@[simp] theorem State.loadImage_ST (image : List Byte) : (s.loadImage image).ST = s.ST := rfl
@[simp] theorem State.loadImage_key (image : List Byte) : (s.loadImage image).key = s.key := rfl
@[simp] theorem State.loadImage_fb (image : List Byte) : (s.loadImage image).fb = s.fb := rfl
@[simp] theorem State.loadImage_needsRedraw (image : List Byte) : (s.loadImage image).needsRedraw = s.needsRedraw := rfl
@[simp] theorem State.loadImage_FAULT (image : List Byte) : (s.loadImage image).FAULT = s.FAULT := rfl
@[simp] theorem State.loadImage_config (image : List Byte) : (s.loadImage image).config = s.config := rfl
@[simp] theorem State.loadImage_draws (image : List Byte) : (s.loadImage image).draws = s.draws := rfl

end Sys2Proof.Machine
end

