-- ==== Sys2Proof/Laws/Decode.lean ====
section
/-! SUPPORT. The numbers behind the instruction formats, their nibbles, fields and fixed bits, and words as bytes. -/

namespace Sys2Proof

theorem formatA_toNat {h : Nat} (hh : h < 16) (nnn : Addr12) : (formatA h nnn).toNat = h * 0x1000 + nnn.toNat := by
  have := nnn.isLt
  simp only [formatA, BitVec.toNat_ofNat]
  omega

theorem formatXK_toNat {h : Nat} (hh : h < 16) (x : Reg) (kk : Byte) :
    (formatXK h x kk).toNat = h * 0x1000 + x.val * 0x100 + kk.toNat := by
  have := kk.isLt
  have := x.isLt
  simp only [formatXK, BitVec.toNat_ofNat]
  omega

theorem formatXYN_toNat {h : Nat} (hh : h < 16) (x y : Reg) (l : Fin 16) :
    (formatXYN h x y l).toNat = h * 0x1000 + x.val * 0x100 + y.val * 0x10 + l.val := by
  have := x.isLt
  have := y.isLt
  have := l.isLt
  simp only [formatXYN, BitVec.toNat_ofNat]
  omega

/-! ### The fields of a word in a format (R92, R93) -/

theorem nibble3_of_toNat {w : Word} {h n : Nat} (hw : w.toNat = h * 0x1000 + n) (hn : n < 0x1000) :
    nibble w 3 = h := by
  have := w.isLt
  unfold nibble
  omega

theorem nibble0_of_toNat {w : Word} {n l : Nat} (hw : w.toNat = n * 0x10 + l) (hl : l < 16) : nibble w 0 = l := by
  unfold nibble
  omega

theorem fieldNNN_formatA {h : Nat} (hh : h < 16) (nnn : Addr12) : fieldNNN (formatA h nnn) = nnn := by
  apply BitVec.eq_of_toNat_eq
  have := nnn.isLt
  simp only [fieldNNN, formatA_toNat hh, BitVec.toNat_ofNat]
  omega

theorem fieldX_formatXK {h : Nat} (hh : h < 16) (x : Reg) (kk : Byte) : fieldX (formatXK h x kk) = x := by
  apply Fin.ext
  have := kk.isLt
  have := x.isLt
  simp only [fieldX, formatXK_toNat hh, Fin.val_ofNat]
  omega

theorem fieldKK_formatXK {h : Nat} (hh : h < 16) (x : Reg) (kk : Byte) : fieldKK (formatXK h x kk) = kk := by
  apply BitVec.eq_of_toNat_eq
  have := kk.isLt
  simp only [fieldKK, formatXK_toNat hh, BitVec.toNat_ofNat]
  omega

theorem fieldX_formatXYN {h : Nat} (hh : h < 16) (x y : Reg) (l : Fin 16) : fieldX (formatXYN h x y l) = x := by
  apply Fin.ext
  have := x.isLt
  have := y.isLt
  have := l.isLt
  simp only [fieldX, formatXYN_toNat hh, Fin.val_ofNat]
  omega

theorem fieldY_formatXYN {h : Nat} (hh : h < 16) (x y : Reg) (l : Fin 16) : fieldY (formatXYN h x y l) = y := by
  apply Fin.ext
  have := y.isLt
  have := l.isLt
  simp only [fieldY, formatXYN_toNat hh, Fin.val_ofNat]
  omega

theorem fieldN_formatXYN {h : Nat} (hh : h < 16) (x y : Reg) (l : Fin 16) : fieldN (formatXYN h x y l) = l := by
  apply Fin.ext
  have := l.isLt
  simp only [fieldN, formatXYN_toNat hh, Fin.val_ofNat]
  omega

/-! ### Every word is a word in each format -/

theorem word_eq_formatA (w : Word) : w = formatA (w.toNat / 0x1000) (fieldNNN w) := by
  apply BitVec.eq_of_toNat_eq
  have := w.isLt
  rw [formatA_toNat (by omega)]
  simp only [fieldNNN, BitVec.toNat_ofNat]
  omega

theorem word_eq_formatXK (w : Word) : w = formatXK (w.toNat / 0x1000) (fieldX w) (fieldKK w) := by
  apply BitVec.eq_of_toNat_eq
  have := w.isLt
  rw [formatXK_toNat (by omega)]
  simp only [fieldX, fieldKK, Fin.val_ofNat, BitVec.toNat_ofNat]
  omega

theorem word_eq_formatXYN (w : Word) : w = formatXYN (w.toNat / 0x1000) (fieldX w) (fieldY w) (fieldN w) := by
  apply BitVec.eq_of_toNat_eq
  have := w.isLt
  rw [formatXYN_toNat (by omega)]
  simp only [fieldX, fieldY, fieldN, Fin.val_ofNat]
  omega

/-! ### The fixed bits of a word in a format (R93) -/

theorem toNat_append_eq {m n : Nat} (a : BitVec m) (b : BitVec n) :
    (a ++ b).toNat = a.toNat * 2 ^ n + b.toNat := by
  rw [BitVec.toNat_append, ← Nat.shiftLeft_add_eq_or_of_lt b.isLt, Nat.shiftLeft_eq]

theorem formatA_eq_append {h : Nat} (hh : h < 16) (nnn : Addr12) :
    formatA h nnn = (BitVec.ofNat 4 h ++ nnn : BitVec 16) := by
  apply BitVec.eq_of_toNat_eq
  have e := toNat_append_eq (BitVec.ofNat 4 h) nnn
  simp only [BitVec.toNat_ofNat] at e
  rw [formatA_toNat hh]
  omega

theorem formatXK_eq_append {h : Nat} (hh : h < 16) (x : Reg) (kk : Byte) :
    formatXK h x kk = (BitVec.ofNat 4 h ++ (BitVec.ofNat 4 x.val ++ kk : BitVec 12) : BitVec 16) := by
  apply BitVec.eq_of_toNat_eq
  have := x.isLt
  have e1 := toNat_append_eq (BitVec.ofNat 4 x.val) kk
  have e2 := toNat_append_eq (BitVec.ofNat 4 h) (BitVec.ofNat 4 x.val ++ kk : BitVec 12)
  simp only [BitVec.toNat_ofNat] at e1 e2
  rw [formatXK_toNat hh]
  omega

theorem formatXYN_eq_append {h : Nat} (hh : h < 16) (x y : Reg) (l : Fin 16) :
    formatXYN h x y l =
      (BitVec.ofNat 4 h ++ (BitVec.ofNat 8 (x.val * 16 + y.val) ++ BitVec.ofNat 4 l.val : BitVec 12) : BitVec 16) := by
  apply BitVec.eq_of_toNat_eq
  have := x.isLt
  have := y.isLt
  have := l.isLt
  have e1 := toNat_append_eq (BitVec.ofNat 8 (x.val * 16 + y.val)) (BitVec.ofNat 4 l.val)
  have e2 := toNat_append_eq (BitVec.ofNat 4 h)
    (BitVec.ofNat 8 (x.val * 16 + y.val) ++ BitVec.ofNat 4 l.val : BitVec 12)
  simp only [BitVec.toNat_ofNat] at e1 e2
  rw [formatXYN_toNat hh]
  omega

/-- Mask 0xF000 leaves the family digit of any word in format A (R93). -/
theorem formatA_and_F000 {h : Nat} (hh : h < 16) (nnn : Addr12) : formatA h nnn &&& 0xF000 = formatA h 0 := by
  rw [formatA_eq_append hh, formatA_eq_append hh, show (0xF000 : BitVec 16) = (0xF#4 ++ 0#12 : BitVec 16) from rfl,
    BitVec.and_append]
  congr 1
  · exact BitVec.and_allOnes
  · exact BitVec.and_zero

/-- Mask 0xF0FF leaves the family digit and the low byte (R93). -/
theorem formatXK_and_F0FF {h : Nat} (hh : h < 16) (x : Reg) (kk : Byte) :
    formatXK h x kk &&& 0xF0FF = formatXK h 0 kk := by
  rw [formatXK_eq_append hh, formatXK_eq_append hh,
    show (0xF0FF : BitVec 16) = (0xF#4 ++ (0#4 ++ 0xFF#8 : BitVec 12) : BitVec 16) from rfl,
    BitVec.and_append, BitVec.and_append]
  congr 1
  · exact BitVec.and_allOnes
  · congr 1
    · exact BitVec.and_zero
    · exact BitVec.and_allOnes

/-- Mask 0xF00F leaves the family digit and the last digit (R93). -/
theorem formatXYN_and_F00F {h : Nat} (hh : h < 16) (x y : Reg) (l : Fin 16) :
    formatXYN h x y l &&& 0xF00F = formatXYN h 0 0 l := by
  rw [formatXYN_eq_append hh, formatXYN_eq_append hh,
    show (0xF00F : BitVec 16) = (0xF#4 ++ (0#8 ++ 0xF#4 : BitVec 12) : BitVec 16) from rfl,
    BitVec.and_append, BitVec.and_append]
  congr 1
  · exact BitVec.and_allOnes
  · congr 1
    · exact BitVec.and_zero
    · exact BitVec.and_allOnes

/-- A word in format XK is one in format A, for masks that look at the family digit only. -/
theorem formatXK_eq_formatA {h : Nat} (hh : h < 16) (x : Reg) (kk : Byte) :
    formatXK h x kk = formatA h (BitVec.ofNat 12 (x.val * 0x100 + kk.toNat)) := by
  apply BitVec.eq_of_toNat_eq
  have := x.isLt
  have := kk.isLt
  rw [formatXK_toNat hh, formatA_toNat hh, BitVec.toNat_ofNat]
  omega

theorem formatXYN_eq_formatA {h : Nat} (hh : h < 16) (x y : Reg) (l : Fin 16) :
    formatXYN h x y l = formatA h (BitVec.ofNat 12 (x.val * 0x100 + y.val * 0x10 + l.val)) := by
  apply BitVec.eq_of_toNat_eq
  have := x.isLt
  have := y.isLt
  have := l.isLt
  rw [formatXYN_toNat hh, formatA_toNat hh, BitVec.toNat_ofNat]
  omega

/-! ### Words as bytes (R63) -/

theorem wordOfBytes_toNat (hi lo : Byte) : (wordOfBytes hi lo).toNat = hi.toNat * 0x100 + lo.toNat := by
  have := hi.isLt
  have := lo.isLt
  simp only [wordOfBytes, BitVec.toNat_ofNat]
  omega

/-- The bytes of a word, read back in memory order, give the word. -/
theorem wordOfBytes_bytesOfWord (w : Word) :
    wordOfBytes (BitVec.ofNat 8 (w.toNat / 0x100)) (BitVec.ofNat 8 w.toNat) = w := by
  apply BitVec.eq_of_toNat_eq
  have := w.isLt
  rw [wordOfBytes_toNat]
  simp only [BitVec.toNat_ofNat]
  omega

@[simp] theorem decodeBytes_bytesOfWord (w : Word) :
    decodeBytes (bytesOfWord w) = (decodeWord w).map (fun i => (i, [])) := by
  simp only [bytesOfWord, decodeBytes, wordOfBytes_bytesOfWord]
  cases decodeWord w <;> rfl

end Sys2Proof
end

