-- ==== Sys2Proof/Laws/Registers.lean ====
section
/-! SUPPORT. What reading a register, a key or a stack entry gives after an update. -/

namespace Sys2Proof.Machine

variable (s : State)

theorem State.readV_writeV (x r : Reg) (b : Byte) : (s.writeV x b).readV r = if r = x then b else s.readV r := by
  simp only [State.readV, State.writeV, Vector.getElem_set]
  by_cases h : r = x
  · simp [h]
  · have : x.val ≠ r.val := fun e => h (Fin.ext e.symm)
    simp [h, this]

@[simp] theorem State.readV_writeV_self (x : Reg) (b : Byte) : (s.writeV x b).readV x = b := by
  simp [State.readV_writeV]

theorem State.readV_writeV_ne {x r : Reg} (h : r ≠ x) (b : Byte) : (s.writeV x b).readV r = s.readV r := by
  simp [State.readV_writeV, h]

theorem State.readV_setVF (c : Bool) (r : Reg) : (s.setVF c).readV r = if r = VF then flagByte c else s.readV r :=
  s.readV_writeV VF r (flagByte c)

@[simp] theorem State.readV_writeBytes (a : Nat) (bs : List Byte) (r : Reg) :
    (s.writeBytes a bs).readV r = s.readV r := rfl
@[simp] theorem State.readV_setI (v : Word) (r : Reg) : (s.setI v).readV r = s.readV r := rfl
@[simp] theorem State.readV_setPc (v : Word) (r : Reg) : (s.setPc v).readV r = s.readV r := rfl
@[simp] theorem State.readV_advance (r : Reg) : s.advance.readV r = s.readV r := rfl
@[simp] theorem State.readV_skipIf (c : Bool) (r : Reg) : (s.skipIf c).readV r = s.readV r := rfl
@[simp] theorem State.readV_setDT (v : Byte) (r : Reg) : (s.setDT v).readV r = s.readV r := rfl
@[simp] theorem State.readV_setST (v : Byte) (r : Reg) : (s.setST v).readV r = s.readV r := rfl
@[simp] theorem State.readV_tick (r : Reg) : s.tick.readV r = s.readV r := rfl
@[simp] theorem State.readV_setFb (fb : Framebuffer) (r : Reg) : (s.setFb fb).readV r = s.readV r := rfl
@[simp] theorem State.readV_setNeedsRedraw (b : Bool) (r : Reg) : (s.setNeedsRedraw b).readV r = s.readV r := rfl
@[simp] theorem State.readV_countDraw (r : Reg) : s.countDraw.readV r = s.readV r := rfl
@[simp] theorem State.readV_latch (f : Raise) (w : Word) (r : Reg) : (s.latch f w).readV r = s.readV r := rfl
@[simp] theorem State.readV_setKey (k : Fin 16) (b : Bool) (r : Reg) : (s.setKey k b).readV r = s.readV r := rfl

@[simp] theorem State.readV_loadImage (image : List Byte) (r : Reg) : (s.loadImage image).readV r = s.readV r := rfl

theorem State.keyDown_setKey (k j : Fin 16) (b : Bool) :
    (s.setKey k b).keyDown j = if j = k then b else s.keyDown j := by
  simp only [State.keyDown, State.setKey, Vector.getElem_set]
  by_cases h : j = k
  · simp [h]
  · have : k.val ≠ j.val := fun e => h (Fin.ext e.symm)
    simp [h, this]

theorem mem_allSixteen (k : Fin 16) : k ∈ allSixteen := by
  revert k; decide

/-- The registers V0 to Vx are those up to x. -/
theorem mem_regsUpTo (x r : Reg) : r ∈ regsUpTo x ↔ r ≤ x := by
  simp [regsUpTo, mem_allSixteen]

theorem regsUpTo_length (x : Reg) : (regsUpTo x).length = x.val + 1 := by
  revert x; decide

/-- The k-th of V0 to Vx is Vk. -/
theorem regsUpTo_getElem (x : Reg) (k : Nat) (h : k < (regsUpTo x).length) : ((regsUpTo x)[k]).val = k := by
  have key : ∀ x : Reg, (regsUpTo x).map Fin.val = List.range (x.val + 1) := by decide
  have h2 : ((regsUpTo x).map Fin.val)[k]'(by simpa using h) = k := by
    have hk : k < x.val + 1 := by simpa [regsUpTo_length] using h
    simp [key]
  simpa using h2

/-- Loading registers touches nothing but registers. -/
theorem State.loadRegs_eq (base : Nat) (ks : List Reg) (t : State) :
    ∃ v, ks.foldl (fun t k => t.writeV k (s.readByte (base + k.val))) t = { t with V := v } := by
  induction ks generalizing t with
  | nil => exact ⟨t.V, rfl⟩
  | cons k ks ih =>
    obtain ⟨v, hv⟩ := ih (t.writeV k (s.readByte (base + k.val)))
    exact ⟨v, by simpa [State.writeV] using hv⟩

/-- After loading, a register of the list holds its byte of memory and every other register is as before. -/
theorem State.readV_loadRegs (base : Nat) (ks : List Reg) (r : Reg) :
    (s.loadRegs base ks).readV r = if r ∈ ks then s.readByte (base + r.val) else s.readV r := by
  unfold State.loadRegs
  suffices h : ∀ t : State, (ks.foldl (fun t k => t.writeV k (s.readByte (base + k.val))) t).readV r =
      if r ∈ ks then s.readByte (base + r.val) else t.readV r from h s
  induction ks with
  | nil => intro t; simp
  | cons k ks ih =>
    intro t
    simp only [List.foldl_cons, ih, State.readV_writeV, List.mem_cons]
    by_cases h1 : r ∈ ks <;> by_cases h2 : r = k <;> simp_all

/-- The lowest key that is down: it is down and no lower one is. -/
theorem State.lowestKey_eq_some {k : Fin 16} (h : s.lowestKey = some k) :
    s.keyDown k = true ∧ ∀ j < k, s.keyDown j = false := by
  unfold State.lowestKey at h
  obtain ⟨hk, as, bs, hab, hlow⟩ := List.find?_eq_some_iff_append.mp h
  refine ⟨by simpa using hk, fun j hj => ?_⟩
  have hsorted : allSixteen.Pairwise (· < ·) := by decide
  have hj2 := mem_allSixteen j
  rw [hab] at hsorted hj2
  rcases List.mem_append.mp hj2 with hm | hm
  · simpa using hlow j hm
  · have h3 := (List.pairwise_append.mp hsorted).2.1
    rcases List.mem_cons.mp hm with rfl | hm
    · exact absurd hj (lt_irrefl _)
    · exact absurd ((List.pairwise_cons.mp h3).1 j hm) (not_lt.mpr hj.le)

theorem State.lowestKey_eq_none (h : s.lowestKey = none) (k : Fin 16) : s.keyDown k = false := by
  have := List.find?_eq_none.mp h k (mem_allSixteen k)
  simpa using this

theorem State.push?_eq_some {v : Word} {t : State} (h : s.push? v = some t) :
    ∃ h16 : s.sp.val < 16, t = { s with stack := s.stack.set s.sp.val v, sp := ⟨s.sp.val + 1, by omega⟩ } := by
  unfold State.push? at h
  split at h
  · next h16 => exact ⟨h16, by simpa using h.symm⟩
  · cases h

theorem State.push?_eq_none {v : Word} : s.push? v = none ↔ s.sp.val = 16 := by
  unfold State.push?
  split
  · next h => simp; omega
  · next h => simp; omega

theorem State.pop?_eq_some {v : Word} {t : State} (h : s.pop? = some (v, t)) :
    ∃ h0 : 0 < s.sp.val, v = s.stack[s.sp.val - 1] ∧ t = { s with sp := ⟨s.sp.val - 1, by omega⟩ } := by
  unfold State.pop? at h
  split at h
  · next h0 =>
    simp only [Option.some.injEq, Prod.mk.injEq] at h
    exact ⟨h0, h.1.symm, h.2.symm⟩
  · cases h

theorem State.pop?_eq_none : s.pop? = none ↔ s.sp.val = 0 := by
  unfold State.pop?
  split
  · next h => simp; omega
  · next h => simp; omega

end Sys2Proof.Machine
end

