-- ==== Sys2Proof/Laws/Flags.lean ====
section
/-! SUPPORT. The numbers the flag computations give (R23). -/

namespace Sys2Proof.Machine

theorem flagByte_toNat (c : Bool) : (flagByte c).toNat = if c = true then 1 else 0 := by
  cases c <;> rfl

theorem addCarry_iff (a b : Byte) : addCarry a b = true ↔ 255 < a.toNat + b.toNat := by
  have := a.isLt
  simp only [addCarry, decide_eq_true_eq]
  omega

theorem subNoBorrow_iff (a b : Byte) : subNoBorrow a b = true ↔ b.toNat ≤ a.toNat := by
  simp [subNoBorrow]

theorem subnGreater_iff (a b : Byte) : subnGreater a b = true ↔ a.toNat < b.toNat := by
  simp [subnGreater]

theorem indexOverflow_iff (i : Word) (b : Byte) : indexOverflow i b = true ↔ 0xFFF < i.toNat + b.toNat := by
  simp [indexOverflow]

/-- The bit a right shift drops is the remainder by 2. -/
theorem flagByte_lowBit (a : Byte) : (flagByte (lowBit a)).toNat = a.toNat % 2 := by
  revert a; decide

/-- The bit a left shift drops is the quotient by 128. -/
theorem flagByte_highBit (a : Byte) : (flagByte (highBit a)).toNat = a.toNat / 128 := by
  revert a; decide

theorem shiftRight_one_toNat (a : Byte) : (a >>> 1).toNat = a.toNat / 2 := by
  simp [BitVec.toNat_ushiftRight, Nat.shiftRight_eq_div_pow]

theorem shiftLeft_one_toNat (a : Byte) : (a <<< 1).toNat = a.toNat * 2 % 256 := by
  simp [BitVec.toNat_shiftLeft, Nat.shiftLeft_eq]

end Sys2Proof.Machine
end

