-- ==== Sys2Proof/Laws/Framebuffer.lean ====
section
/-! SUPPORT. What reading the framebuffer gives after a toggle and after a draw, which cells a sprite targets, and that
drawing keeps the canonical form. -/

namespace Sys2Proof.Machine

theorem Framebuffer.mem_insert {idx j : Nat} {fb : Framebuffer} :
    j ∈ Framebuffer.insert idx fb ↔ j = idx ∨ j ∈ fb := by
  induction fb with
  | nil => simp [Framebuffer.insert]
  | cons k fb ih =>
    simp only [Framebuffer.insert]
    split
    · simp
    · simp only [List.mem_cons, ih]; grind

/-- A toggle flips its cell and leaves every other one alone. No premise on the framebuffer. -/
theorem Framebuffer.read_toggle (fb : Framebuffer) (idx j : Nat) :
    (fb.toggle idx).read j = if j = idx then !fb.read idx else fb.read j := by
  unfold Framebuffer.toggle
  split
  · next h =>
    by_cases hj : j = idx
    · simp [Framebuffer.read, hj] at h ⊢
      exact h
    · simp [Framebuffer.read, hj]
  · next h =>
    by_cases hj : j = idx
    · subst hj
      have hm : j ∈ Framebuffer.insert j fb := Framebuffer.mem_insert.mpr (.inl rfl)
      have hn : j ∉ fb := by simpa [Framebuffer.read] using h
      simp [Framebuffer.read, hm, hn]
    · have hiff : j ∈ Framebuffer.insert idx fb ↔ j ∈ fb := by simp [Framebuffer.mem_insert, hj]
      simp [Framebuffer.read, hj, hiff]

theorem Framebuffer.insert_rising {idx : Nat} {fb : Framebuffer} (h : fb.Pairwise (· < ·)) (hn : idx ∉ fb) :
    (Framebuffer.insert idx fb).Pairwise (· < ·) := by
  induction fb with
  | nil => simp [Framebuffer.insert]
  | cons k fb ih =>
    obtain ⟨hk, hfb⟩ := List.pairwise_cons.mp h
    have hne : idx ≠ k := fun e => hn (by simp [e])
    simp only [Framebuffer.insert]
    split
    · next hlt =>
      refine List.pairwise_cons.mpr ⟨fun j hj => ?_, h⟩
      rcases List.mem_cons.mp hj with rfl | hj
      · exact hlt
      · exact Nat.lt_trans hlt (hk j hj)
    · refine List.pairwise_cons.mpr ⟨fun j hj => ?_, ih hfb (fun hm => hn (by simp [hm]))⟩
      rcases Framebuffer.mem_insert.mp hj with rfl | hj
      · omega
      · exact hk j hj

/-- A toggle of an existing cell keeps the canonical form. -/
theorem Framebuffer.wf_toggle {fb : Framebuffer} (h : fb.wf) {idx : Nat} (hi : idx < fbSize) :
    (fb.toggle idx).wf := by
  unfold Framebuffer.toggle
  split
  · exact ⟨h.1.filter _, fun j hj => h.2 j (List.mem_of_mem_filter hj)⟩
  · next hr =>
    refine ⟨Framebuffer.insert_rising h.1 (by simpa [Framebuffer.read] using hr), fun j hj => ?_⟩
    rcases Framebuffer.mem_insert.mp hj with rfl | hj
    · exact hi
    · exact h.2 j hj

theorem Framebuffer.wf_draw {cells : List Nat} : ∀ {fb : Framebuffer}, fb.wf → (∀ i ∈ cells, i < fbSize) →
    (fb.draw cells).1.wf := by
  induction cells with
  | nil => exact fun h _ => h
  | cons i cells ih =>
    intro fb h hc
    exact ih (Framebuffer.wf_toggle h (hc i (by simp))) (fun j hj => hc j (by simp [hj]))

/-- Drawing distinct cells flips exactly those, and reports a hit exactly when one of them was lit. -/
theorem Framebuffer.draw_spec {cells : List Nat} (hd : cells.Nodup) : ∀ fb : Framebuffer,
    (∀ j, (fb.draw cells).1.read j = if j ∈ cells then !fb.read j else fb.read j) ∧
    ((fb.draw cells).2 = true ↔ ∃ j ∈ cells, fb.read j = true) := by
  induction cells with
  | nil => intro fb; simp [Framebuffer.draw]
  | cons i cells ih =>
    intro fb
    obtain ⟨hi, hd⟩ := List.nodup_cons.mp hd
    obtain ⟨h1, h2⟩ := ih hd (fb.toggle i)
    constructor
    · intro j
      simp only [Framebuffer.draw, h1, Framebuffer.read_toggle, List.mem_cons]
      by_cases hj : j = i
      · subst hj; simp [hi]
      · simp [hj]
    · simp only [Framebuffer.draw, Bool.or_eq_true, h2, List.mem_cons, exists_eq_or_imp]
      constructor
      · rintro (h | ⟨j, hj, h⟩)
        · exact .inl h
        · have hne : j ≠ i := fun e => hi (e ▸ hj)
          exact .inr ⟨j, hj, by simpa [Framebuffer.read_toggle, hne] using h⟩
      · rintro (h | ⟨j, hj, h⟩)
        · exact .inl h
        · have hne : j ≠ i := fun e => hi (e ▸ hj)
          exact .inr ⟨j, hj, by simpa [Framebuffer.read_toggle, hne] using h⟩

/-- The cells a sprite targets: one for each set pixel. -/
theorem State.mem_spriteCells (s : State) (x0 y0 base n idx : Nat) :
    idx ∈ s.spriteCells x0 y0 base n ↔
      ∃ r < n, ∃ c < 8, spriteBit (s.readByte (base + r)) c = true ∧ idx = pixelIndex x0 y0 r c := by
  simp only [State.spriteCells, spriteRowCells, List.mem_flatMap, List.mem_range, List.mem_map, List.mem_filter]
  constructor
  · rintro ⟨r, hr, c, ⟨hc, hb⟩, rfl⟩; exact ⟨r, hr, c, hc, hb, rfl⟩
  · rintro ⟨r, hr, c, hc, hb, rfl⟩; exact ⟨r, hr, c, ⟨hc, hb⟩, rfl⟩

/-- Two pixels of a sprite share a target cell only if they are the same pixel (R222). -/
theorem pixelIndex_injective {x0 y0 r c r' c' : Nat} (hc : c < 8) (hc' : c' < 8)
    (h : pixelIndex x0 y0 r c = pixelIndex x0 y0 r' c') : r = r' ∧ c = c' := by
  unfold pixelIndex at h
  omega

/-- No cell is targeted twice by one sprite (R222). -/
theorem State.spriteCells_nodup (s : State) (x0 y0 base n : Nat) : (s.spriteCells x0 y0 base n).Nodup := by
  unfold State.spriteCells
  rw [List.nodup_flatMap]
  constructor
  · intro r _
    unfold spriteRowCells
    refine List.Nodup.map_on ?_ (List.nodup_range.filter _)
    intro c hc c' hc' h
    simp only [List.mem_filter, List.mem_range] at hc hc'
    exact (pixelIndex_injective hc.1 hc'.1 h).2
  · refine List.nodup_range.pairwise_of_forall_ne ?_
    intro r _ r' _ hne
    simp only [Function.onFun, List.disjoint_left, spriteRowCells, List.mem_map, List.mem_filter, List.mem_range]
    rintro idx ⟨c, ⟨hc, _⟩, rfl⟩ ⟨c', ⟨hc', _⟩, h⟩
    exact hne (pixelIndex_injective hc' hc h).1.symm

/-- A rectangle whose last cell exists has only existing cells (R222). -/
theorem State.spriteCells_lt (s : State) {x0 y0 base n : Nat} (h : fbRaise? x0 y0 n = none) :
    ∀ idx ∈ s.spriteCells x0 y0 base n, idx < fbSize := by
  intro idx hidx
  obtain ⟨r, hr, c, hc, -, rfl⟩ := (s.mem_spriteCells x0 y0 base n idx).mp hidx
  unfold fbRaise? at h
  split at h
  · cases h
  · next hn =>
    unfold pixelIndex at hn ⊢
    show _ < 2048
    omega

end Sys2Proof.Machine
end

