-- ==== Sys2Proof/Laws/Memory.lean ====
section
/-! SUPPORT. What reading memory gives after a store, for every memory, and that stores keep the canonical form. -/

namespace Sys2Proof.Machine

theorem Memory.read_filter_ne (bg : Nat → Byte) (m : Memory) {a a' : Nat} (h : a' ≠ a) :
    Memory.read bg (m.filter (fun c => c.1 != a)) a' = Memory.read bg m a' := by
  induction m with
  | nil => rfl
  | cons c m ih =>
    obtain ⟨k, b⟩ := c
    by_cases hk : k = a
    · subst hk; simp [Memory.read, Ne.symm h, ih]
    · simp [Memory.read, hk, ih]

theorem Memory.read_filter_self (bg : Nat → Byte) (m : Memory) (a : Nat) :
    Memory.read bg (m.filter (fun c => c.1 != a)) a = bg a := by
  induction m with
  | nil => rfl
  | cons c m ih =>
    obtain ⟨k, b⟩ := c
    by_cases hk : k = a
    · simpa [hk] using ih
    · simp [Memory.read, hk, ih]

theorem Memory.read_insert (bg : Nat → Byte) (m : Memory) (a a' : Nat) (b : Byte) (h : ∀ c ∈ m, c.1 ≠ a) :
    Memory.read bg (Memory.insert a b m) a' = if a' = a then b else Memory.read bg m a' := by
  induction m with
  | nil => simp [Memory.insert, Memory.read, eq_comm]
  | cons c m ih =>
    obtain ⟨k, d⟩ := c
    have hk : k ≠ a := h (k, d) (by simp)
    have ih := ih (fun c hc => h c (by simp [hc]))
    simp only [Memory.insert]
    split
    · simp [Memory.read, eq_comm]
    · simp only [Memory.read, ih]
      grind

/-- Read after write: the stored byte at its address, every other address as before. No premise on the memory. -/
theorem Memory.read_write (bg : Nat → Byte) (m : Memory) (a a' : Nat) (b : Byte) :
    Memory.read bg (Memory.write bg m a b) a' = if a' = a then b else Memory.read bg m a' := by
  unfold Memory.write
  split
  · next hb =>
    by_cases h : a' = a
    · simp [h, Memory.read_filter_self, hb]
    · simp [h, Memory.read_filter_ne bg m h]
  · rw [Memory.read_insert _ _ _ _ _ (by simp)]
    by_cases h : a' = a
    · simp [h]
    · simp [h, Memory.read_filter_ne bg m h]

/-- Reading after a run of stores: the byte of the run at its place, every other address as before. -/
theorem Memory.read_writeAll (bg : Nat → Byte) (m : Memory) (a a' : Nat) (bs : List Byte) :
    Memory.read bg (Memory.writeAll bg m a bs) a' =
      if h : a ≤ a' ∧ a' - a < bs.length then bs[a' - a]'h.2 else Memory.read bg m a' := by
  induction bs generalizing m a with
  | nil => simp [Memory.writeAll]
  | cons b bs ih =>
    simp only [Memory.writeAll, ih, Memory.read_write, List.length_cons]
    rcases Nat.lt_trichotomy a' a with h | h | h
    · rw [dif_neg (by omega), dif_neg (by omega), if_neg (by omega)]
    · subst h; rw [dif_neg (by omega), dif_pos (by omega)]; simp
    · by_cases h2 : a' - a < bs.length + 1
      · rw [dif_pos (by omega), dif_pos (by omega)]
        obtain ⟨n, hn⟩ : ∃ n, a' = a + 1 + n := ⟨a' - (a + 1), by omega⟩
        subst hn
        have e1 : a + 1 + n - (a + 1) = n := by omega
        have e2 : a + 1 + n - a = n + 1 := by omega
        simp [e1, e2]
      · rw [dif_neg (by omega), dif_neg (by omega), if_neg (by omega)]

theorem Memory.mem_insert {a : Nat} {b : Byte} {m : Memory} {c : Host.Cell} :
    c ∈ Memory.insert a b m ↔ c = (a, b) ∨ c ∈ m := by
  induction m with
  | nil => simp [Memory.insert]
  | cons d m ih =>
    simp only [Memory.insert]
    split
    · simp
    · simp only [List.mem_cons, ih]; grind

theorem Memory.insert_rising {a : Nat} {b : Byte} {m : Memory}
    (h : m.Pairwise (fun c d => c.1 < d.1)) (ha : ∀ c ∈ m, c.1 ≠ a) :
    (Memory.insert a b m).Pairwise (fun c d => c.1 < d.1) := by
  induction m with
  | nil => simp [Memory.insert]
  | cons d m ih =>
    obtain ⟨hd, hm⟩ := List.pairwise_cons.mp h
    have hne : d.1 ≠ a := ha d (by simp)
    simp only [Memory.insert]
    split
    · next hlt =>
      refine List.pairwise_cons.mpr ⟨fun c hc => ?_, h⟩
      rcases List.mem_cons.mp hc with rfl | hc
      · exact hlt
      · exact Nat.lt_trans hlt (hd c hc)
    · next hge =>
      refine List.pairwise_cons.mpr ⟨fun c hc => ?_, ih hm (fun c hc => ha c (by simp [hc]))⟩
      rcases Memory.mem_insert.mp hc with rfl | hc
      · show d.1 < a
        omega
      · exact hd c hc

/-- A store at an existing address keeps the canonical form. -/
theorem Memory.wf_write {bg : Nat → Byte} {m : Memory} (h : m.wf bg) {a : Nat} (ha : a < memSize) (b : Byte) :
    (Memory.write bg m a b).wf bg := by
  have hf : Memory.wf bg (m.filter (fun c => c.1 != a)) :=
    ⟨h.1.filter _, fun c hc => h.2 c (List.mem_of_mem_filter hc)⟩
  unfold Memory.write
  split
  · exact hf
  · next hb =>
    refine ⟨Memory.insert_rising hf.1 (by simp), fun c hc => ?_⟩
    rcases Memory.mem_insert.mp hc with rfl | hc
    · exact ⟨ha, hb⟩
    · exact hf.2 c hc

/-- A run of stores at existing addresses keeps the canonical form. -/
theorem Memory.wf_writeAll {bg : Nat → Byte} {m : Memory} (h : m.wf bg) {a : Nat} {bs : List Byte}
    (ha : a + bs.length ≤ memSize) : (Memory.writeAll bg m a bs).wf bg := by
  induction bs generalizing m a with
  | nil => exact h
  | cons b bs ih =>
    simp only [List.length_cons] at ha
    exact ih (Memory.wf_write h (by omega) b) (by omega)

/-- Two canonical memories that read alike everywhere are the same list. -/
theorem Memory.eq_of_read_eq {bg : Nat → Byte} : ∀ {m n : Memory}, m.wf bg → n.wf bg →
    (∀ a, Memory.read bg m a = Memory.read bg n a) → m = n := by
  have below : ∀ {m : Memory} {a : Nat}, (∀ c ∈ m, a < c.1) → Memory.read bg m a = bg a := by
    intro m a h
    induction m with
    | nil => rfl
    | cons c m ih =>
      have := h c (by simp)
      simp [Memory.read, Nat.ne_of_gt this, ih (fun d hd => h d (by simp [hd]))]
  have tailWf : ∀ {c : Host.Cell} {m : Memory}, Memory.wf bg (c :: m) → m.wf bg := fun h =>
    ⟨(List.pairwise_cons.mp h.1).2, fun d hd => h.2 d (by simp [hd])⟩
  have notNil : ∀ {c : Host.Cell} {m : Memory}, Memory.wf bg (c :: m) →
      ¬ ∀ a, Memory.read bg (c :: m) a = bg a := by
    intro c m h hr
    exact (h.2 c (by simp)).2 (by simpa [Memory.read] using hr c.1)
  intro m
  induction m with
  | nil =>
    intro n _ hn hr
    cases n with
    | nil => rfl
    | cons c n => exact absurd (fun a => (hr a).symm) (notNil hn)
  | cons c m ih =>
    intro n hm hn hr
    cases n with
    | nil => exact absurd hr (notNil hm)
    | cons d n =>
      obtain ⟨k, b⟩ := c
      obtain ⟨l, e⟩ := d
      have hmk := (List.pairwise_cons.mp hm.1).1
      have hnl := (List.pairwise_cons.mp hn.1).1
      have hkl : k = l := by
        rcases Nat.lt_trichotomy k l with h | h | h
        · have h1 := hr k
          rw [below (m := (l, e) :: n)] at h1
          · exact absurd (by simpa [Memory.read] using h1) (hm.2 (k, b) (by simp)).2
          · intro c hc
            rcases List.mem_cons.mp hc with rfl | hc
            · exact h
            · exact Nat.lt_trans h (hnl c hc)
        · exact h
        · have h1 := hr l
          rw [below (m := (k, b) :: m)] at h1
          · exact absurd (by simpa [Memory.read] using h1.symm) (hn.2 (l, e) (by simp)).2
          · intro c hc
            rcases List.mem_cons.mp hc with rfl | hc
            · exact h
            · exact Nat.lt_trans h (hmk c hc)
      subst hkl
      have hbe : b = e := by simpa [Memory.read] using hr k
      subst hbe
      congr 1
      refine ih (tailWf hm) (tailWf hn) (fun a => ?_)
      by_cases ha : k = a
      · subst ha; rw [below hmk, below hnl]
      · simpa [Memory.read, ha] using hr a

/-! ### Reading memory after an update of the state -/

theorem State.readByte_writeBytes (s : State) (a a' : Nat) (bs : List Byte) :
    (s.writeBytes a bs).readByte a' =
      if h : a ≤ a' ∧ a' - a < bs.length then bs[a' - a]'h.2 else s.readByte a' :=
  Memory.read_writeAll _ _ _ _ _

/-- A store leaves every address outside its bytes alone. -/
theorem State.readByte_writeBytes_outside (s : State) {a a' : Nat} {bs : List Byte}
    (h : a' < a ∨ a + bs.length ≤ a') : (s.writeBytes a bs).readByte a' = s.readByte a' := by
  rw [State.readByte_writeBytes, dif_neg (by omega)]

/-- Loading an image is a run of stores from 0x200 up (R306). -/
theorem State.loadImage_eq (s : State) (image : List Byte) : s.loadImage image = s.writeBytes 0x200 image := rfl

variable (s : State)

@[simp] theorem State.readByte_writeV (x : Reg) (b : Byte) (a : Nat) : (s.writeV x b).readByte a = s.readByte a := rfl
@[simp] theorem State.readByte_setVF (c : Bool) (a : Nat) : (s.setVF c).readByte a = s.readByte a := rfl
@[simp] theorem State.readByte_setI (v : Word) (a : Nat) : (s.setI v).readByte a = s.readByte a := rfl
@[simp] theorem State.readByte_setPc (v : Word) (a : Nat) : (s.setPc v).readByte a = s.readByte a := rfl
@[simp] theorem State.readByte_advance (a : Nat) : s.advance.readByte a = s.readByte a := rfl
@[simp] theorem State.readByte_skipIf (c : Bool) (a : Nat) : (s.skipIf c).readByte a = s.readByte a := rfl
@[simp] theorem State.readByte_setDT (v : Byte) (a : Nat) : (s.setDT v).readByte a = s.readByte a := rfl
@[simp] theorem State.readByte_setST (v : Byte) (a : Nat) : (s.setST v).readByte a = s.readByte a := rfl
@[simp] theorem State.readByte_tick (a : Nat) : s.tick.readByte a = s.readByte a := rfl
@[simp] theorem State.readByte_setFb (fb : Framebuffer) (a : Nat) : (s.setFb fb).readByte a = s.readByte a := rfl
@[simp] theorem State.readByte_setNeedsRedraw (b : Bool) (a : Nat) :
    (s.setNeedsRedraw b).readByte a = s.readByte a := rfl
@[simp] theorem State.readByte_countDraw (a : Nat) : s.countDraw.readByte a = s.readByte a := rfl
@[simp] theorem State.readByte_latch (r : Raise) (w : Word) (a : Nat) : (s.latch r w).readByte a = s.readByte a := rfl
@[simp] theorem State.readByte_setKey (k : Fin 16) (b : Bool) (a : Nat) :
    (s.setKey k b).readByte a = s.readByte a := rfl

/-- An address that memory does not list reads as its reset contents (R39, log 8). -/
theorem State.readByte_resetWith (c : Config) (d a : Nat) : (State.resetWith c d).readByte a = c.resetByte a := rfl

end Sys2Proof.Machine
end

