-- ==== Sys2Proof/Laws/Step.lean ====
section
/-! SUPPORT. What a fault, a guarded instruction and a cycle can do, said once each; and that a placed word is the one
the next cycle fetches. -/

namespace Sys2Proof.Machine

/-- A raise answers the latched state. -/
theorem raise_eq (r : Raise) (w : Word) (s : State) : raise r w s = .next (s.latch r w) := rfl

/-- A guarded instruction either latches the fault its condition names or has its effect. -/
theorem guarded_cases {f : Option Raise} {w : Word} {s e t : State} (h : guarded f w s e = .next t) :
    (∃ r, f = some r ∧ t = s.latch r w) ∨ (f = none ∧ t = e) := by
  cases f with
  | none => exact .inr ⟨rfl, by simpa [guarded] using h.symm⟩
  | some r => exact .inl ⟨r, rfl, by simpa [guarded, raise] using h.symm⟩

@[simp] theorem guarded_none (w : Word) (s e : State) : guarded none w s e = .next e := rfl
@[simp] theorem guarded_some (r : Raise) (w : Word) (s e : State) : guarded (some r) w s e = .next (s.latch r w) := rfl

/-- No condition of memory bounds holds exactly when every accessed address exists. -/
theorem memRaise?_eq_none {base count : Nat} : memRaise? base count = none ↔ count = 0 ∨ base + count ≤ memSize := by
  unfold memRaise?
  show _ ↔ count = 0 ∨ base + count ≤ 4096
  split
  · next h => simp; omega
  · next h => simp; omega

theorem keyRaise?_eq_none {k : Byte} : keyRaise? k = none ↔ k.toNat < 16 := by
  unfold keyRaise?
  split
  · next h => simp; omega
  · next h => simp; omega

theorem fbRaise?_eq_none {x0 y0 n : Nat} : fbRaise? x0 y0 n = none ↔ n = 0 ∨ (y0 + n - 1) * 64 + x0 + 7 < fbSize := by
  unfold fbRaise? pixelIndex
  show _ ↔ n = 0 ∨ _ < 2048
  split
  · next h =>
    obtain ⟨m, rfl⟩ : ∃ m, n = m + 1 := ⟨n - 1, by omega⟩
    simp only [Nat.add_sub_cancel, ← Nat.add_assoc] at h ⊢
    simp; omega
  · next h =>
    rcases Nat.eq_zero_or_pos n with rfl | hn
    · simp
    · obtain ⟨m, rfl⟩ : ∃ m, n = m + 1 := ⟨n - 1, by omega⟩
      simp only [Nat.add_sub_cancel, ← Nat.add_assoc] at h ⊢
      simp; omega

theorem drawRaise?_eq_none {x0 y0 base n : Nat} :
    drawRaise? x0 y0 base n = none ↔ memRaise? base n = none ∧ fbRaise? x0 y0 n = none := by
  simp [drawRaise?, Option.or_eq_none_iff]

@[simp] theorem bcdDigits_length (v : Byte) : (bcdDigits v).length = 3 := rfl

@[simp] theorem bytesOfWord_length (w : Word) : (bytesOfWord w).length = 2 := rfl

theorem fetchRaise?_eq_none (s : State) : s.fetchRaise? = none ↔ s.pc.toNat ≤ lastFetch := by
  unfold State.fetchRaise?
  split
  · next h => simp; omega
  · next h => simp; omega

/-- WHAT A CYCLE CAN DO (R120 to R122): nothing, on a faulted core; latch FetchOutOfBounds; or end the cycle of what
was fetched. -/
theorem step_cases {s t : State} (h : step s = .next t) :
    (s.faulted ∧ t = s) ∨
    (s.FAULT.cause = none ∧ lastFetch < s.pc.toNat ∧ t = s.latch ⟨.fetchOutOfBounds, s.pc.toNat⟩ 0) ∨
    (s.fetches ∧ ∃ u, execDecoded s.fetched s = .next u ∧ t = u.endCycle) := by
  unfold step at h
  split at h
  · next hf => exact .inl ⟨hf, by simpa using h.symm⟩
  · next hf =>
    have hn : s.FAULT.cause = none := by simpa using hf
    cases hr : s.fetchRaise? with
    | some r =>
      unfold State.fetchRaise? at hr
      split at hr
      · next hpc =>
        simp only [Option.some.injEq] at hr
        subst hr
        refine .inr (.inl ⟨hn, hpc, ?_⟩)
        simpa [State.fetchRaise?, hpc, raise] using h.symm
      · cases hr
    | none =>
      have hpc := (fetchRaise?_eq_none s).mp hr
      rw [hr] at h
      refine .inr (.inr ⟨⟨hn, hpc⟩, ?_⟩)
      cases he : execDecoded s.fetched s with
      | next u => exact ⟨u, rfl, by simpa [he, endStep] using h.symm⟩
      | fault r => simp [he, endStep] at h
      | refused r => simp [he, endStep] at h

/-- A cycle that fetches ends what it executes (R120). -/
theorem step_of_fetches {s : State} (h : s.fetches) : step s = endStep (execDecoded s.fetched s) := by
  simp [step, h.1, (fetchRaise?_eq_none s).mpr h.2]

/-- The end of a cycle after a fault changes nothing; else it is the timer post-step (R120, R130). -/
theorem endCycle_of_none {s : State} (h : s.FAULT.cause = none) : s.endCycle = s.tick := by simp [State.endCycle, h]

theorem endCycle_of_faulted {s : State} (h : s.faulted) : s.endCycle = s := by
  unfold State.faulted at h
  simp [State.endCycle, h]

theorem countDown_toNat (b : Byte) : (countDown b).toNat = b.toNat - 1 := by
  unfold countDown
  split
  · next h => simp [h]
  · next h =>
    have h0 : b.toNat ≠ 0 := fun e => h (BitVec.eq_of_toNat_eq (by simpa using e))
    have := b.isLt
    rw [BitVec.toNat_sub]
    simp only [BitVec.toNat_ofNat, BitVec.ofNat_eq_ofNat]
    omega

/-! ### The word placed for the host is the word fetched (log 13) -/

theorem readyToFetch_fetches (s : State) : s.readyToFetch.fetches := by
  constructor
  · show (if s.FAULT.cause.isSome then FaultLatch.clear else s.FAULT).cause = none
    split
    · rfl
    · next h => exact Option.not_isSome_iff_eq_none.mp h
  · show (if lastFetch < s.pc.toNat then (0x200 : Word) else s.pc).toNat ≤ lastFetch
    split
    · decide
    · next h => exact Nat.le_of_not_lt h

theorem fetchWord_placeWord (s : State) (w : Word) : (s.placeWord w).fetchWord = w := by
  have h0 : (s.placeWord w).readByte s.readyToFetch.pc.toNat = BitVec.ofNat 8 (w.toNat / 0x100) := by
    rw [State.placeWord, State.readByte_writeBytes, dif_pos (by simp)]
    simp [bytesOfWord]
  have h1 : (s.placeWord w).readByte (s.readyToFetch.pc.toNat + 1) = BitVec.ofNat 8 w.toNat := by
    rw [State.placeWord, State.readByte_writeBytes, dif_pos (by simp)]
    simp [bytesOfWord]
  show wordOfBytes ((s.placeWord w).readByte s.readyToFetch.pc.toNat)
    ((s.placeWord w).readByte (s.readyToFetch.pc.toNat + 1)) = w
  rw [h0, h1, wordOfBytes_bytesOfWord]

/-- From any state, the very next cycle executes the placed word and nothing else. -/
theorem step_withFetchWord (s : State) (nbits w : Nat) :
    step (s.withFetchWord nbits w) =
      endStep (execDecoded (decode s.config.placeholders (tableWord nbits w)) (s.withFetchWord nbits w)) := by
  have hf : (s.withFetchWord nbits w).fetches := readyToFetch_fetches s
  rw [step_of_fetches hf]
  have hw : (s.withFetchWord nbits w).fetchWord = tableWord nbits w := fetchWord_placeWord s _
  unfold State.fetched
  rw [hw]
  rfl

end Sys2Proof.Machine
end

