-- ==== Sys2Proof/Laws/Frame.lean ====
section
/-! SUPPORT. How a frame is shown, and the frame of a latched fault. -/

namespace Sys2Proof.Machine

/-- A frame, from the agreement of the fields it keeps. -/
theorem sameBut_of_fields {s t : State} {l : List Part}
    (mem : .mem ∉ l → ∀ a, t.readByte a = s.readByte a) (v : .V ∉ l → ∀ r, t.readV r = s.readV r)
    (i : .I ∉ l → t.I = s.I) (pc : .pc ∉ l → t.pc = s.pc) (stack : .stack ∉ l → t.stack = s.stack)
    (sp : .sp ∉ l → t.sp = s.sp) (dt : .DT ∉ l → t.DT = s.DT) (st : .ST ∉ l → t.ST = s.ST)
    (key : .key ∉ l → t.key = s.key) (fb : .fb ∉ l → t.fb = s.fb)
    (redraw : .needsRedraw ∉ l → t.needsRedraw = s.needsRedraw) (fault : .FAULT ∉ l → t.FAULT = s.FAULT)
    (config : .config ∉ l → t.config = s.config) (draws : .draws ∉ l → t.draws = s.draws) : sameBut l s t := by
  intro p hp
  cases p with
  | mem => exact mem hp
  | V => exact v hp
  | I => exact i hp
  | pc => exact pc hp
  | stack => exact fun k => by rw [stack hp]
  | sp => exact sp hp
  | DT => exact dt hp
  | ST => exact st hp
  | key => exact fun k => by unfold State.keyDown; rw [key hp]
  | fb => exact fun idx => by rw [fb hp]
  | needsRedraw => exact redraw hp
  | FAULT => exact fault hp
  | config => exact config hp
  | draws => exact draws hp

/-- Latching a fault changes nothing but the latch (R262). -/
theorem faultedWith_latch (s : State) (r : Raise) (w : Word) : faultedWith r.cause w s (s.latch r w) :=
  ⟨rfl, by apply sameBut_of_fields <;> simp⟩

/-- The timer post-step changes nothing but the timers, and lowers both (R130). -/
theorem tick_spec (s : State) : timersFell s s.tick ∧ sameBut [.DT, .ST] s s.tick :=
  ⟨⟨countDown_toNat _, countDown_toNat _⟩, by apply sameBut_of_fields <;> simp⟩

theorem sameBut_refl (l : List Part) (s : State) : sameBut l s s := by
  apply sameBut_of_fields <;> simp

end Sys2Proof.Machine
end

