-- ==== Sys2Proof/Laws/PerInstr.lean ====
section
/-! SUPPORT. Statements made of every instruction, one lemma per constructor. -/

namespace Sys2Proof.Laws.FixedBits

/-- The word of an instruction carries the bits its row of the opcode map fixes (R94, R96). -/
def Statement (i : Instr) : Prop :=
  ∃ r ∈ opcodeRows, r.number = rowNumber i ∧ r.matchesWord (encode i) = true

theorem ofA {i : Instr} {h : Nat} {nnn : Addr12} (n : Nat) (hn : n = rowNumber i) (hh : h < 16)
    (hi : encode i = formatA h nnn) (hr : ⟨n, formatA h 0, 0xF000⟩ ∈ opcodeRows) : Statement i := by
  refine ⟨_, hr, hn, ?_⟩
  rw [OpcodeRow.matchesWord, hi, beq_iff_eq]
  exact formatA_and_F000 hh nnn

theorem ofX {i : Instr} {h : Nat} {x : Reg} {kk : Byte} (n : Nat) (hn : n = rowNumber i) (hh : h < 16)
    (hi : encode i = formatXK h x kk) (hr : ⟨n, formatXK h 0 kk, 0xF0FF⟩ ∈ opcodeRows) : Statement i := by
  refine ⟨_, hr, hn, ?_⟩
  rw [OpcodeRow.matchesWord, hi, beq_iff_eq]
  exact formatXK_and_F0FF hh x kk

theorem ofXY {i : Instr} {h : Nat} {x y : Reg} {l : Fin 16} (n : Nat) (hn : n = rowNumber i) (hh : h < 16)
    (hi : encode i = formatXYN h x y l) (hr : ⟨n, formatXYN h 0 0 l, 0xF00F⟩ ∈ opcodeRows) : Statement i := by
  refine ⟨_, hr, hn, ?_⟩
  rw [OpcodeRow.matchesWord, hi, beq_iff_eq]
  exact formatXYN_and_F00F hh x y l

theorem ofXK {i : Instr} {h : Nat} {x : Reg} {kk : Byte} (n : Nat) (hn : n = rowNumber i) (hh : h < 16)
    (hi : encode i = formatXK h x kk) (hr : ⟨n, formatA h 0, 0xF000⟩ ∈ opcodeRows) : Statement i :=
  ofA n hn hh (hi.trans (formatXK_eq_formatA hh x kk)) hr

theorem ofXYN {i : Instr} {h : Nat} {x y : Reg} {l : Fin 16} (n : Nat) (hn : n = rowNumber i) (hh : h < 16)
    (hi : encode i = formatXYN h x y l) (hr : ⟨n, formatA h 0, 0xF000⟩ ∈ opcodeRows) : Statement i :=
  ofA n hn hh (hi.trans (formatXYN_eq_formatA hh x y l)) hr

theorem cls : Statement .cls := ⟨⟨1, 0x00E0, 0xFFFF⟩, by decide, rfl, by decide⟩
theorem ret : Statement .ret := ⟨⟨2, 0x00EE, 0xFFFF⟩, by decide, rfl, by decide⟩
theorem sys (nnn : Addr12) : Statement (.sys nnn) := ofA 3 rfl (by decide) rfl (by decide)
theorem jp (nnn : Addr12) : Statement (.jp nnn) := ofA 4 rfl (by decide) rfl (by decide)
theorem call (nnn : Addr12) : Statement (.call nnn) := ofA 5 rfl (by decide) rfl (by decide)
theorem seImm (x : Reg) (kk : Byte) : Statement (.seImm x kk) := ofXK 6 rfl (by decide) rfl (by decide)
theorem sneImm (x : Reg) (kk : Byte) : Statement (.sneImm x kk) := ofXK 7 rfl (by decide) rfl (by decide)
theorem seReg (x y : Reg) : Statement (.seReg x y) := ofXY 8 rfl (by decide) rfl (by decide)
theorem ldImm (x : Reg) (kk : Byte) : Statement (.ldImm x kk) := ofXK 9 rfl (by decide) rfl (by decide)
theorem addImm (x : Reg) (kk : Byte) : Statement (.addImm x kk) := ofXK 10 rfl (by decide) rfl (by decide)
theorem ldReg (x y : Reg) : Statement (.ldReg x y) := ofXY 11 rfl (by decide) rfl (by decide)
theorem orReg (x y : Reg) : Statement (.orReg x y) := ofXY 12 rfl (by decide) rfl (by decide)
theorem andReg (x y : Reg) : Statement (.andReg x y) := ofXY 13 rfl (by decide) rfl (by decide)
theorem xorReg (x y : Reg) : Statement (.xorReg x y) := ofXY 14 rfl (by decide) rfl (by decide)
theorem addReg (x y : Reg) : Statement (.addReg x y) := ofXY 15 rfl (by decide) rfl (by decide)
theorem sub (x y : Reg) : Statement (.sub x y) := ofXY 16 rfl (by decide) rfl (by decide)
theorem shr (x y : Reg) : Statement (.shr x y) := ofXY 17 rfl (by decide) rfl (by decide)
theorem subn (x y : Reg) : Statement (.subn x y) := ofXY 18 rfl (by decide) rfl (by decide)
theorem shl (x y : Reg) : Statement (.shl x y) := ofXY 19 rfl (by decide) rfl (by decide)
theorem sneReg (x y : Reg) : Statement (.sneReg x y) := ofXY 20 rfl (by decide) rfl (by decide)
theorem ldI (nnn : Addr12) : Statement (.ldI nnn) := ofA 21 rfl (by decide) rfl (by decide)
theorem jpV0 (nnn : Addr12) : Statement (.jpV0 nnn) := ofA 22 rfl (by decide) rfl (by decide)
theorem rnd (x : Reg) (kk : Byte) : Statement (.rnd x kk) := ofXK 23 rfl (by decide) rfl (by decide)
theorem drw (x y : Reg) (n : Fin 16) : Statement (.drw x y n) := ofXYN 24 rfl (by decide) rfl (by decide)
theorem skp (x : Reg) : Statement (.skp x) := ofX 25 rfl (by decide) rfl (by decide)
theorem sknp (x : Reg) : Statement (.sknp x) := ofX 26 rfl (by decide) rfl (by decide)
theorem ldVxDt (x : Reg) : Statement (.ldVxDt x) := ofX 27 rfl (by decide) rfl (by decide)
theorem ldVxK (x : Reg) : Statement (.ldVxK x) := ofX 28 rfl (by decide) rfl (by decide)
theorem ldDtVx (x : Reg) : Statement (.ldDtVx x) := ofX 29 rfl (by decide) rfl (by decide)
theorem ldStVx (x : Reg) : Statement (.ldStVx x) := ofX 30 rfl (by decide) rfl (by decide)
theorem addI (x : Reg) : Statement (.addI x) := ofX 31 rfl (by decide) rfl (by decide)
theorem ldF (x : Reg) : Statement (.ldF x) := ofX 32 rfl (by decide) rfl (by decide)
theorem ldB (x : Reg) : Statement (.ldB x) := ofX 33 rfl (by decide) rfl (by decide)
theorem stRegs (x : Reg) : Statement (.stRegs x) := ofX 34 rfl (by decide) rfl (by decide)
theorem ldRegs (x : Reg) : Statement (.ldRegs x) := ofX 35 rfl (by decide) rfl (by decide)

end Sys2Proof.Laws.FixedBits
end

