-- ==== Sys2Proof/Tests/Slice0.lean ====
section
/-! SUPPORT. Tests of the model: the words of every constructor written out from R96, the ill-formed terms, vectors of
95_test_vectors.md (their ids in the comments), and a witness for the hypotheses of every statement. -/

namespace Sys2Proof.Tests

open Sys2Proof.Machine

/-! ## Well-formedness: the two words that family 0 gives away (R95) -/

theorem test_wf_refuses_sys_0E0 : (Instr.sys 0x0E0).wellFormed = false := by decide
theorem test_wf_refuses_sys_0EE : (Instr.sys 0x0EE).wellFormed = false := by decide
theorem test_wf_accepts_sys_neighbours :
    (Instr.sys 0x0E1).wellFormed = true ∧ (Instr.sys 0x0EF).wellFormed = true ∧ (Instr.sys 0).wellFormed = true := by
  decide

/-! ## Decoding: one word of every row, written out from the patterns of R96 -/

theorem test_decode_cls : decodeWord 0x00E0 = .ok .cls := by decide
theorem test_decode_ret : decodeWord 0x00EE = .ok .ret := by decide
theorem test_decode_sys : decodeWord 0x0123 = .ok (.sys 0x123) := by decide
theorem test_decode_jp : decodeWord 0x1ABC = .ok (.jp 0xABC) := by decide
theorem test_decode_call : decodeWord 0x2300 = .ok (.call 0x300) := by decide
theorem test_decode_seImm : decodeWord 0x332A = .ok (.seImm 3 0x2A) := by decide
theorem test_decode_sneImm : decodeWord 0x4F01 = .ok (.sneImm 15 0x01) := by decide
theorem test_decode_seReg : decodeWord 0x5120 = .ok (.seReg 1 2) := by decide
theorem test_decode_ldImm : decodeWord 0x6A2F = .ok (.ldImm 10 0x2F) := by decide
theorem test_decode_addImm : decodeWord 0x7105 = .ok (.addImm 1 0x05) := by decide
theorem test_decode_ldReg : decodeWord 0x8120 = .ok (.ldReg 1 2) := by decide
theorem test_decode_orReg : decodeWord 0x8121 = .ok (.orReg 1 2) := by decide
theorem test_decode_andReg : decodeWord 0x8122 = .ok (.andReg 1 2) := by decide
theorem test_decode_xorReg : decodeWord 0x8123 = .ok (.xorReg 1 2) := by decide
theorem test_decode_addReg : decodeWord 0x8F14 = .ok (.addReg 15 1) := by decide
theorem test_decode_sub : decodeWord 0x8015 = .ok (.sub 0 1) := by decide
theorem test_decode_shr : decodeWord 0x8106 = .ok (.shr 1 0) := by decide
theorem test_decode_subn : decodeWord 0x8127 = .ok (.subn 1 2) := by decide
theorem test_decode_shl : decodeWord 0x8FFE = .ok (.shl 15 15) := by decide
theorem test_decode_sneReg : decodeWord 0x9120 = .ok (.sneReg 1 2) := by decide
theorem test_decode_ldI : decodeWord 0xA2F0 = .ok (.ldI 0x2F0) := by decide
theorem test_decode_jpV0 : decodeWord 0xB2FE = .ok (.jpV0 0x2FE) := by decide
theorem test_decode_rnd : decodeWord 0xC30F = .ok (.rnd 3 0x0F) := by decide
theorem test_decode_drw : decodeWord 0xD01F = .ok (.drw 0 1 15) := by decide
theorem test_decode_skp : decodeWord 0xE29E = .ok (.skp 2) := by decide
theorem test_decode_sknp : decodeWord 0xE2A1 = .ok (.sknp 2) := by decide
theorem test_decode_ldVxDt : decodeWord 0xF307 = .ok (.ldVxDt 3) := by decide
theorem test_decode_ldVxK : decodeWord 0xF30A = .ok (.ldVxK 3) := by decide
theorem test_decode_ldDtVx : decodeWord 0xF315 = .ok (.ldDtVx 3) := by decide
theorem test_decode_ldStVx : decodeWord 0xF318 = .ok (.ldStVx 3) := by decide
theorem test_decode_addI : decodeWord 0xF21E = .ok (.addI 2) := by decide
theorem test_decode_ldF : decodeWord 0xF429 = .ok (.ldF 4) := by decide
theorem test_decode_ldB : decodeWord 0xF533 = .ok (.ldB 5) := by decide
theorem test_decode_stRegs : decodeWord 0xF255 = .ok (.stRegs 2) := by decide
theorem test_decode_ldRegs : decodeWord 0xF165 = .ok (.ldRegs 1) := by decide

/-- Words one digit off a pattern match nothing, or are SYS in family 0 (R94, R97). -/
theorem test_decode_near_misses :
    decodeWord 0x5AB1 = .error .unmatched ∧ decodeWord 0x8128 = .error .unmatched ∧
    decodeWord 0x9121 = .error .unmatched ∧ decodeWord 0xE19F = .error .unmatched ∧
    decodeWord 0xF1FF = .error .unmatched ∧ decodeWord 0x00EF = .ok (.sys 0x0EF) := by decide

/-- Bytes are read high byte first, and one byte is no instruction (R63, R90). -/
theorem test_decode_bytes :
    decodeBytes [0x12, 0x34, 0x56] = .ok (.jp 0x234, [0x56]) ∧ decodeBytes [0x12] = .error .truncated := by decide

/-- The opcode table numbers an instruction's bits as its one word. -/
theorem test_decode_table_word :
    decodeTableWord 16 0xD345 = some (.drw 3 4 5) ∧ decodeTableWord 16 0x5001 = none := by decide

/-! ## One cycle on a small state -/

/-- The start of the vectors: reset, and the redraw flag cleared by the host. -/
def start : State := { State.reset with needsRedraw := false }

/-- The same with some registers set. -/
def withRegs (rs : List (Reg × Byte)) (s : State := start) : State := rs.foldl (fun t r => t.writeV r.1 r.2) s

/-- The state a result goes on with; a state no test expects where there is none. -/
def goesOn : Result → State
  | .next t => t
  | .fault _ | .refused _ => { start with pc := 0xDEAD }

/-- One cycle that executes this word at pc. -/
def cycle (s : State) (w : Nat) : State := goesOn (step (s.withFetchWord 16 w))

/-- What FAULT holds after a cycle, as the vectors write it. -/
def latched (s : State) : Nat × Nat × Nat := (s.FAULT.code, s.FAULT.pc.toNat, s.FAULT.opcode.toNat)

-- T40a, T40b, T40g
theorem test_sys_only_ticks :
    let t := cycle { start with DT := 3 } 0x0123
    t.pc = 0x200 ∧ t.DT = 2 ∧ t.FAULT = FaultLatch.clear := by decide
theorem test_unmatched_only_ticks :
    let t := cycle { start with pc := 0x300, ST := 1 } 0x5AB1
    t.pc = 0x300 ∧ t.ST = 0 ∧ t.FAULT = FaultLatch.clear := by decide
theorem test_near_cls_is_sys :
    let t := cycle { start with fb := [7] } 0x00E1
    t.pc = 0x200 ∧ t.fb = [7] ∧ t.needsRedraw = false := by decide
-- T40n
theorem test_placeholder_advances :
    let t := cycle { start with DT := 1, config := { defaultConfig with placeholders := [0x00FE] } } 0x00FE
    t.pc = 0x202 ∧ t.DT = 0 := by decide
-- T40i, T40k, T40m
theorem test_fetch_above_memory_faults :
    let t := goesOn (step { start with pc := 0xFFF, DT := 4 })
    latched t = (1, 0xFFF, 0) ∧ t.DT = 4 ∧ t.pc = 0xFFF := by decide
theorem test_odd_pc_fetches : let t := cycle { start with pc := 0x201 } 0x6512
    t.readV 5 = 0x12 ∧ t.pc = 0x203 := by decide
theorem test_faulted_core_is_stuck :
    let s := { start with FAULT := ⟨some .stackUnderflow, 0x300, 0x00EE⟩, pc := 0x300, DT := 7 }
    goesOn (step s) = s := by decide

-- T41a, T41b, T41e, T41f, T41g
theorem test_ret_pops : let t := cycle { start with pc := 0x300, sp := 1, stack := start.stack.set 0 0x200 } 0x00EE
    t.pc = 0x202 ∧ t.sp = 0 := by decide
theorem test_ret_underflow : latched (cycle { start with pc := 0x300 } 0x00EE) = (3, 0x300, 0x00EE) := by decide
theorem test_jp_odd_target : (cycle start 0x1201).pc = 0x201 := by decide
theorem test_call_sixteenth : let t := cycle { start with sp := 15 } 0x2300
    t.stack[15] = 0x200 ∧ t.sp = 16 ∧ t.pc = 0x300 := by decide
theorem test_call_overflow : let t := cycle { start with sp := 16 } 0x2300
    latched t = (2, 0x200, 0x2300) ∧ t.pc = 0x200 := by decide
-- T41h, T41j, T41k, T41l, T41m, T41n, T41o, T41p
theorem test_jpV0_not_masked : (cycle (withRegs [(0, 0xFF)]) 0xBFFF).pc = 0x10FE := by decide
theorem test_seImm_vf : (cycle (withRegs [(15, 1)]) 0x3F01).pc = 0x204 := by decide
theorem test_seImm_no_skip : (cycle (withRegs [(3, 0x2B)]) 0x332A).pc = 0x202 := by decide
theorem test_sneImm_skips : (cycle start 0x432A).pc = 0x204 := by decide
theorem test_sneImm_no_skip : (cycle (withRegs [(3, 0x2A)]) 0x432A).pc = 0x202 := by decide
theorem test_seReg_skips : (cycle (withRegs [(1, 7), (2, 7)] { start with pc := 0x210 }) 0x5120).pc = 0x214 := by decide
theorem test_seReg_no_skip : (cycle (withRegs [(1, 7), (2, 8)]) 0x5120).pc = 0x202 := by decide
theorem test_sneReg_skips : (cycle (withRegs [(1, 7), (2, 8)] { start with pc := 0x210 }) 0x9120).pc = 0x214 := by decide
theorem test_sneReg_same_register : (cycle (withRegs [(3, 9)]) 0x9330).pc = 0x202 := by decide

-- T42C, T42u, T42v, T42A, T42w, T42x, T42y
theorem test_ldImm_vf : (cycle start 0x6FAB).readV 15 = 0xAB := by decide
theorem test_addImm_wraps_no_flag : let t := cycle (withRegs [(1, 0xFE)]) 0x7105
    t.readV 1 = 0x03 ∧ t.readV 15 = 0 ∧ t.pc = 0x202 := by decide
theorem test_addImm_vf_destination : (cycle (withRegs [(15, 1)]) 0x7FFF).readV 15 = 0 := by decide
theorem test_ldReg_copies : (cycle (withRegs [(1, 0x77)]) 0x8F10).readV 15 = 0x77 := by decide
theorem test_orReg_keeps_vf : let t := cycle (withRegs [(1, 0xF0), (2, 0x0F), (15, 0x5A)]) 0x8121
    t.readV 1 = 0xFF ∧ t.readV 15 = 0x5A := by decide
theorem test_andReg : (cycle (withRegs [(1, 0xF3), (2, 0x3F)]) 0x8122).readV 1 = 0x33 := by decide
theorem test_xorReg : (cycle (withRegs [(1, 0xFF), (2, 0x0F)]) 0x8123).readV 1 = 0xF0 := by decide
-- T42a, T42e, T42h, T42j, T42p, T42o, T42l, T42n, T42r, T42s
theorem test_addReg_carry : let t := cycle (withRegs [(0, 0xFF), (1, 1)]) 0x8014
    t.readV 0 = 0 ∧ t.readV 15 = 1 := by decide
theorem test_addReg_into_vf : (cycle (withRegs [(15, 0x80)]) 0x8FF4).readV 15 = 1 := by decide
theorem test_sub_borrow : let t := cycle (withRegs [(0, 5), (1, 0x0A)]) 0x8015
    t.readV 0 = 0xFB ∧ t.readV 15 = 0 := by decide
theorem test_sub_equal : let t := cycle (withRegs [(0, 7), (1, 7)]) 0x8015
    t.readV 0 = 0 ∧ t.readV 15 = 1 := by decide
theorem test_shr_ignores_y : let t := cycle (withRegs [(1, 5), (0, 0xAA)]) 0x8106
    t.readV 1 = 2 ∧ t.readV 15 = 1 ∧ t.readV 0 = 0xAA := by decide
theorem test_shr_of_vf : (cycle (withRegs [(15, 3)]) 0x8F06).readV 15 = 0 := by decide
theorem test_subn_no_borrow : let t := cycle (withRegs [(0, 5), (1, 0x0A)]) 0x8017
    t.readV 0 = 5 ∧ t.readV 15 = 1 := by decide
theorem test_subn_equal : let t := cycle (withRegs [(0, 7), (1, 7)]) 0x8017
    t.readV 0 = 0 ∧ t.readV 15 = 0 := by decide
theorem test_shl : let t := cycle (withRegs [(1, 0x81)]) 0x810E
    t.readV 1 = 2 ∧ t.readV 15 = 1 := by decide
theorem test_shl_of_vf : (cycle (withRegs [(15, 0x80)]) 0x8FFE).readV 15 = 2 := by decide
-- T42D, as far as every draw allows
theorem test_rnd_uses_up_a_draw : let t := cycle start 0xC300
    t.draws = 1 ∧ t.pc = 0x202 := by decide
theorem test_rnd_of_a_drawn_A7 (h : Config.randomByte 0 = 0xA7) : (cycle start 0xC30F).readV 3 = 0x07 := by
  show Config.randomByte 0 &&& 0x0F = 0x07
  rw [h]; decide

-- T43f, T43a, T43c, T43e, T43h
theorem test_ldI : let t := cycle start 0xA2F0
    t.I = 0x2F0 ∧ t.pc = 0x202 := by decide
theorem test_addI_past_memory : let t := cycle (withRegs [(2, 3)] { start with I := 0xFFE }) 0xF21E
    t.I = 0x1001 ∧ t.readV 15 = 1 := by decide
theorem test_addI_of_vf : let t := cycle (withRegs [(15, 1)] { start with I := 0x100 }) 0xFF1E
    t.I = 0x101 ∧ t.readV 15 = 0 := by decide
theorem test_ldF_whole_byte : (cycle (withRegs [(4, 0xFF)]) 0xF429).I = 0x4FB := by decide
-- T43k, T43l, T43n, T43o, T43q, T43s, T43t
theorem test_ldB_highest_address : let t := cycle (withRegs [(5, 234)] { start with I := 0xFFD }) 0xF533
    t.readByte 0xFFD = 2 ∧ t.readByte 0xFFE = 3 ∧ t.readByte 0xFFF = 4 ∧ t.I = 0xFFD := by decide
theorem test_ldB_out_of_memory : let t := cycle (withRegs [(5, 7)] { start with I := 0xFFE }) 0xF533
    latched t = (4, 0x200, 0xF533) ∧ t.readByte 0xFFE = 0 := by decide
theorem test_stRegs : let t := cycle (withRegs [(0, 0x11), (1, 0x22), (2, 0x33)] { start with I := 0x400 }) 0xF255
    [0x400, 0x401, 0x402, 0x403].map t.readByte = [0x11, 0x22, 0x33, 0] ∧ t.I = 0x403 := by decide
theorem test_stRegs_offset_one :
    let t := cycle (withRegs [(0, 0x11), (1, 0x22), (2, 0x33)]
      { start with I := 0x400, config := { defaultConfig with blockXferOffset := 1 } }) 0xF255
    [0x400, 0x401, 0x402, 0x403].map t.readByte = [0, 0x11, 0x22, 0x33] ∧ t.I = 0x403 := by decide
theorem test_ldRegs :
    let t := cycle (withRegs [(2, 0x99)] ({ start with I := 0x400 }.writeBytes 0x400 [0xAA, 0xBB, 0xCC])) 0xF165
    t.readV 0 = 0xAA ∧ t.readV 1 = 0xBB ∧ t.readV 2 = 0x99 ∧ t.I = 0x402 := by decide
theorem test_ldRegs_out_of_memory : latched (cycle { start with I := 0x1000 } 0xF065) = (4, 0x200, 0xF065) := by decide

-- T44m, T44k, T44c, T44j, T44d, T44e
theorem test_cls_keeps_vf : let t := cycle (withRegs [(15, 1)] { start with fb := [0, 5, 2047] }) 0x00E0
    t.fb = [] ∧ t.readV 15 = 1 ∧ t.needsRedraw = true ∧ t.pc = 0x202 := by decide
theorem test_drw_spills_into_next_row :
    let t := cycle (withRegs [(0, 60), (1, 0)] ({ start with I := 0x300, fb := [63] }.writeBytes 0x300 [0xFF])) 0xD011
    t.fb = [60, 61, 62, 64, 65, 66, 67] ∧ t.readV 15 = 1 ∧ t.needsRedraw = true := by decide
theorem test_drw_memory_before_framebuffer :
    let t := cycle (withRegs [(1, 40)] { start with I := 0xFFF }) 0xD012
    latched t = (4, 0x200, 0xD012) ∧ t.needsRedraw = false := by decide

-- T45a, T45e, T45c, T45f, T45h, T45g, T45j, T45l, T45n
theorem test_skp_skips : (cycle (withRegs [(2, 10)] (start.setKey 10 true)) 0xE29E).pc = 0x204 := by decide
theorem test_skp_no_such_key : let t := cycle (withRegs [(2, 0x10)] { start with DT := 5 }) 0xE29E
    latched t = (6, 0x200, 0xE29E) ∧ t.DT = 5 := by decide
theorem test_sknp_skips : (cycle (withRegs [(2, 10)]) 0xE2A1).pc = 0x204 := by decide
theorem test_sknp_no_such_key : latched (cycle (withRegs [(2, 0xFF)]) 0xE2A1) = (6, 0x200, 0xE2A1) := by decide
theorem test_ldVxK_lowest : let t := cycle (withRegs [(3, 0xEE)] ((start.setKey 9 true).setKey 4 true)) 0xF30A
    t.readV 3 = 4 ∧ t.pc = 0x202 ∧ t.keyDown 4 = true := by decide
theorem test_ldVxK_waits : let t := cycle { start with DT := 3 } 0xF30A
    t.pc = 0x200 ∧ t.readV 3 = 0 ∧ t.DT = 2 := by decide
theorem test_ldVxDt : let t := cycle { start with DT := 5 } 0xF307
    t.readV 3 = 5 ∧ t.DT = 4 := by decide
theorem test_ldDtVx : (cycle (withRegs [(3, 0x3C)]) 0xF315).DT = 0x3B := by decide
theorem test_ldStVx : (cycle (withRegs [(3, 2)]) 0xF318).ST = 1 := by decide

/-! ## Host moves -/

/-- The state after one move of the host. -/
def afterMove (op : HostOp) (s : State) : State :=
  match hostOp op s with
  | .next (t, _) => t
  | .fault _ | .refused _ => { start with pc := 0xDEAD }

-- H1, H7, S1, P6, H8
theorem test_reset_after_anything :
    let s := { start with pc := 0x345, sp := 4, DT := 8, fb := [7], mem := [(0x200, 0x12)] }
    afterMove .reset (s.latch ⟨.stackUnderflow, 0x345⟩ 0x00EE) = State.reset := by decide
theorem test_load_program : let t := afterMove (.loadProgram [0x12, 0x34, 0xAB, 0xCD]) start
    [0x1FF, 0x200, 0x201, 0x202, 0x203, 0x204].map t.readByte = [0, 0x12, 0x34, 0xAB, 0xCD, 0] ∧
      t.readByte 0 = 0xF0 ∧ t.readByte 0x4F = 0x80 := by decide
theorem test_set_and_release_key :
    (afterMove (.setKeyState 5 true) start).keyDown 5 = true ∧
      afterMove (.setKeyState 5 false) (afterMove (.setKeyState 5 true) start) = start := by decide
theorem test_clear_redraw_flag : (afterMove .clearRedrawFlag State.reset).needsRedraw = false := by decide
theorem test_reset_without_program_stays : goesOn (step State.reset) = State.reset := by decide

/-! ## Witnesses: states and operands that meet the hypotheses of the statements, clause by clause -/

/-- The word at pc of `start`, in a state that fetches it. -/
def at16 (w : Nat) (s : State := start) : State := s.withFetchWord 16 w

theorem witness_EncodeThenDecode :
    (Instr.drw 15 15 15).wellFormed = true ∧ (Instr.sys 0x0E1).wellFormed = true ∧ (Instr.sys 0xFFF).wellFormed = true := by
  decide
theorem witness_DecodeThenEncode : decodeWord 0xFFFF = .error .unmatched ∧ decodeWord 0x8FFE = .ok (.shl 15 15) := by
  decide
theorem witness_FetchIsBigEndian : ({ start with pc := 0xFFE } : State).pc.toNat + 1 ≤ 0xFFF := by decide
/-- A non-faulting instruction, and one that faults. -/
theorem witness_StepRunsTheDecodedInstruction :
    (at16 0x6A2F).fetches ∧
    decodeBytes [(at16 0x6A2F).readByte 0x200, (at16 0x6A2F).readByte 0x201] = .ok (.ldImm 10 0x2F, []) ∧
    (goesOn (exec (.ldImm 10 0x2F) (at16 0x6A2F))).FAULT.cause = none ∧
    decodeBytes [(at16 0x00EE).readByte 0x200, (at16 0x00EE).readByte 0x201] = .ok (.ret, []) ∧
    (goesOn (exec .ret (at16 0x00EE))).faulted :=
  ⟨⟨rfl, by decide⟩, by decide, by decide, by decide, rfl⟩
/-- The same for SYS, whose word is not in the empty placeholder set. -/
theorem witness_StepRunsTheDecodedInstruction_sys :
    decodeBytes [start.readByte 0x200, start.readByte 0x201] = .ok (.sys 0, []) ∧
      start.fetchWord ∉ start.config.placeholders := by decide
theorem witness_UnmatchedWordOnlyTicksTheTimers :
    (at16 0x5AB1).fetches ∧ decodeWord (at16 0x5AB1).fetchWord = .error .unmatched ∧
      (at16 0x5AB1).fetchWord ∉ (at16 0x5AB1).config.placeholders := ⟨⟨rfl, by decide⟩, by decide, by decide⟩
/-- Placeholders in family F (unmatched) and in family 0 (SYS). -/
theorem witness_PlaceholderWordOnlyAdvancesPc :
    let s : State := { start with config := { defaultConfig with placeholders := [0xF130, 0x00FE] } }
    (at16 0xF130 s).fetches ∧ (at16 0xF130 s).fetchWord ∈ (at16 0xF130 s).config.placeholders ∧
    decodeWord (at16 0xF130 s).fetchWord = .error .unmatched ∧
    (at16 0x00FE s).fetchWord ∈ (at16 0x00FE s).config.placeholders ∧
    decodeWord (at16 0x00FE s).fetchWord = .ok (.sys 0x0FE) :=
  ⟨⟨rfl, by decide⟩, by decide, by decide, by decide, by decide⟩
theorem witness_SysDoesNothing : (0x0E1 : Addr12) ≠ 0x0E0 ∧ (0x0E1 : Addr12) ≠ 0x0EE := by decide
theorem witness_FetchBeyondMemoryFaults :
    ({ start with pc := 0xFFF } : State).FAULT.cause = none ∧ 0xFFE < ({ start with pc := 0xFFF } : State).pc.toNat := by
  decide
theorem witness_FaultedCoreIsStuck : (start.latch ⟨.stackUnderflow, 0x200⟩ 0x00EE).faulted := rfl
/-- A fault of an instruction at the highest pc it can be fetched from, and a fault of the fetch one byte above. -/
theorem witness_FaultsArePrecise :
    let s := at16 0x00EE { start with pc := 0xFFE }
    let u : State := { start with pc := 0xFFF }
    ¬ s.faulted ∧ step s = .next (goesOn (step s)) ∧ (goesOn (step s)).faulted ∧ s.pc.toNat ≤ 0xFFE ∧
    ¬ u.faulted ∧ step u = .next (goesOn (step u)) ∧ (goesOn (step u)).faulted ∧ 0xFFE < u.pc.toNat :=
  ⟨by simp [State.faulted, at16, State.withFetchWord, State.placeWord, State.writeBytes, State.readyToFetch, start,
    State.reset, State.resetWith, FaultLatch.clear], rfl, rfl, by decide, by simp [State.faulted, start, State.reset,
    State.resetWith, FaultLatch.clear], rfl, rfl, by decide⟩
/-- One state for each cause, at the boundary of its condition, and the state just inside it. -/
theorem witness_EachFaultHasExactlyItsCause :
    (goesOn (step { start with pc := 0xFFF })).FAULT.code = 1 ∧
    (cycle { start with sp := 16 } 0x2300).FAULT.code = 2 ∧ (cycle { start with sp := 15 } 0x2300).FAULT.code = 0 ∧
    (cycle { start with sp := 0 } 0x00EE).FAULT.code = 3 ∧ (cycle { start with sp := 1 } 0x00EE).FAULT.code = 0 ∧
    (cycle { start with I := 0xFFF } 0xD012).FAULT.code = 4 ∧ (cycle { start with I := 0xFFF } 0xD011).FAULT.code = 0 ∧
    (cycle { start with I := 0xFFE } 0xF033).FAULT.code = 4 ∧ (cycle { start with I := 0xFFD } 0xF033).FAULT.code = 0 ∧
    (cycle { start with I := 0xFF1 } 0xFF55).FAULT.code = 4 ∧ (cycle { start with I := 0xFF0 } 0xFF55).FAULT.code = 0 ∧
    (cycle { start with I := 0xFF1 } 0xFF65).FAULT.code = 4 ∧ (cycle { start with I := 0xFF0 } 0xFF65).FAULT.code = 0 ∧
    (cycle (withRegs [(0, 57), (1, 31)]) 0xD011).FAULT.code = 5 ∧
    (cycle (withRegs [(0, 56), (1, 31)]) 0xD011).FAULT.code = 0 ∧
    (cycle (withRegs [(2, 16)]) 0xE29E).FAULT.code = 6 ∧ (cycle (withRegs [(2, 15)]) 0xE29E).FAULT.code = 0 := by decide
theorem witness_TimersFallOncePerCycle :
    (at16 0xF315).fetches ∧ step (at16 0xF315) = .next (goesOn (step (at16 0xF315))) ∧
    (cycle start 0xF315).FAULT.cause = none ∧ (at16 0xF315).fetched = .row (.ldDtVx 3) ∧
    (at16 0xF318).fetched = .row (.ldStVx 3) ∧ (at16 0x6A2F).fetched = .row (.ldImm 10 0x2F) :=
  ⟨⟨rfl, by decide⟩, rfl, by decide, by decide, by decide, by decide⟩
/-- A faulting and a non-faulting cycle, and a key that is and one that is not down. -/
theorem witness_EachInstructionLeavesPcAsListed :
    (cycle start 0x00EE).faulted ∧ (cycle start 0xE29E).FAULT.cause = none ∧
    ((0 : Fin 16).val = ((at16 0xE29E).readV 2).toNat) ∧ (∀ k, start.keyDown k = false) ∧
    (start.setKey 15 true).keyDown 15 = true := ⟨rfl, by decide, by decide, by decide, by decide⟩
theorem witness_whole_machine_statements :
    step (at16 0xA2F0) = .next (goesOn (step (at16 0xA2F0))) ∧ (at16 0xA2F0).fetched = .row (.ldI 0x2F0) ∧
    step (at16 0xF533) = .next (goesOn (step (at16 0xF533))) ∧ (at16 0xF533).fetched = .row (.ldB 5) ∧
    (at16 0xFF55).fetched = .row (.stRegs 15) ∧ State.reset.needsRedraw = true := ⟨rfl, by decide, rfl, by decide, by decide, rfl⟩
theorem witness_OnlyDestinationRegistersChange :
    exec (.addReg 1 2) start = .next (goesOn (exec (.addReg 1 2) start)) ∧ (3 : Reg) ∉ registersWritten (.addReg 1 2) :=
  ⟨rfl, by decide⟩
theorem witness_SoundTimerIsNeverRead : exec (.ldStVx 1) start = .next (goesOn (exec (.ldStVx 1) start)) := rfl
/-- A state that is not the reset state, with something in every part the invariant speaks of. -/
theorem witness_EveryStepKeepsTheInvariant :
    let s : State := { start with mem := [(0x200, 0x12)], fb := [5, 2047], pc := 0xFFE, sp := 1, stack := start.stack.set 0 0xFFE }
    s.Inv ∧ step s = .next (goesOn (step s)) :=
  ⟨⟨by decide, by decide, by decide, by decide, .inl ⟨rfl, rfl⟩⟩, rfl⟩
/-- The same state, to which a move that is no cycle is made. -/
theorem witness_EveryHostMoveKeepsTheInvariant :
    let s : State := { start with mem := [(0x200, 0x12)], fb := [5, 2047], pc := 0xFFE, sp := 1, stack := start.stack.set 0 0xFFE }
    s.Inv ∧ hostOp (.loadProgram [0x60, 0x05]) s = .next (s.loadImage [0x60, 0x05], .loaded) :=
  ⟨⟨by decide, by decide, by decide, by decide, .inl ⟨rfl, rfl⟩⟩, rfl⟩
theorem witness_reachable_state : Reachable (State.reset.setNeedsRedraw false) :=
  .move (op := .clearRedrawFlag) (reply := .nothing) (.reset defaultConfig 0) rfl
theorem witness_flag_register_operands : (14 : Reg) ≠ VF ∧ (15 : Reg) = VF := by decide
theorem witness_CallPushesItsOwnAddress :
    ({ start with sp := 15 } : State).sp.val < 16 ∧ ({ start with sp := 16 } : State).sp.val = 16 := by decide
theorem witness_ReturnPopsAndStepsOverTheCall :
    ({ start with sp := 16 } : State).sp.val = (15 : Fin 16).val + 1 ∧ ({ start with sp := 1 } : State).sp.val = (0 : Fin 16).val + 1 ∧
    start.sp.val = 0 := by decide
theorem witness_JumpsSetPc :
    start.FAULT.cause = none ∧ 0xFFE < (0xFFF : Addr12).toNat ∧ 0xFFE < (0xFFF : Addr12).toNat + (start.readV 0).toNat := by
  decide
/-- A call that faults on a full stack, a core stuck on it, and a cycle that executes another word. -/
theorem witness_OnlyCallAndReturnTouchTheStack :
    let s := at16 0x2300 { start with sp := 16 }
    let t := goesOn (step s)
    step s = .next t ∧ t.faulted ∧ s.fetched = .row (.call 0x300) ∧ step t = .next t ∧
    step (at16 0xA2F0) = .next (goesOn (step (at16 0xA2F0))) ∧ (at16 0xA2F0).fetched = .row (.ldI 0x2F0) :=
  ⟨rfl, rfl, by decide, rfl, rfl, by decide⟩
theorem witness_CallThenReturnComesBack :
    let t := goesOn (exec (.call 0x300) start)
    start.sp.val < 16 ∧ exec (.call 0x300) start = .next t ∧ exec .ret t = .next (goesOn (exec .ret t)) :=
  ⟨by decide, rfl, rfl⟩
theorem witness_SkipsOnRegisters : (1 : Fin 16) ≠ 0 ∧ (15 : Fin 16) ≠ 0 := by decide
theorem witness_StoreDecimalDigits :
    ({ start with I := 0xFFD } : State).I.toNat + 2 ≤ 0xFFF ∧ 0xFFF < ({ start with I := 0xFFE } : State).I.toNat + 2 := by
  decide
/-- The last starting I that fits and the first that does not, for both settings of the offset. -/
theorem witness_register_blocks :
    let one := { defaultConfig with blockXferOffset := 1 }
    let fits : State := { start with I := 0xFF0 }
    let fits1 : State := { start with I := 0xFEF, config := one }
    let past : State := { start with I := 0xFF1 }
    let past1 : State := { start with I := 0xFF0, config := one }
    fits.I.toNat + fits.config.blockXferOffset.val + 15 ≤ 0xFFF ∧
    fits1.I.toNat + fits1.config.blockXferOffset.val + 15 ≤ 0xFFF ∧
    0xFFF < past.I.toNat + past.config.blockXferOffset.val + 15 ∧
    0xFFF < past1.I.toNat + past1.config.blockXferOffset.val + 15 := by decide
/-- The state after the store, with I put back, is one to load in. -/
theorem witness_BlockStoreThenLoadReturnsRegisters :
    let s := withRegs [(0, 0xAA), (1, 0xBB)] { start with I := 0x400 }
    let t := goesOn (exec (.stRegs 1) s)
    let v := t.setI 0x400
    exec (.stRegs 1) s = .next t ∧ s.FAULT.cause = none ∧ t.FAULT.cause = none ∧ v.I = s.I ∧ v.config = s.config ∧
      exec (.ldRegs 1) v = .next (goesOn (exec (.ldRegs 1) v)) :=
  ⟨rfl, by decide, by decide, by decide, rfl, rfl⟩
/-- T43x: FX55 over the two bytes after itself; and over the second of them only. -/
theorem witness_NextFetchSeesEveryStore :
    let s := withRegs [(0, 0x6A), (1, 0x2F)] { start with I := 0x202 }
    let t := goesOn (exec (.stRegs 1) s)
    let u := goesOn (exec (.stRegs 1) (s.setI 0x203))
    exec (.stRegs 1) s = .next t ∧ s.FAULT.cause = none ∧ t.FAULT.cause = none ∧ (0 : Reg) ≤ 1 ∧ (1 : Reg) ≤ 1 ∧
    t.pc.toNat = s.I.toNat + s.config.blockXferOffset.val + (0 : Reg).val ∧
    t.pc.toNat + 1 = s.I.toNat + s.config.blockXferOffset.val + (1 : Reg).val ∧ t.fetchWord = 0x6A2F ∧
    u.pc.toNat + 1 = (s.setI 0x203).I.toNat + s.config.blockXferOffset.val + (0 : Reg).val ∧ u.fetchWord = 0x006A :=
  ⟨rfl, by decide, by decide, by decide, by decide, by decide, by decide, by decide, by decide, by decide⟩
/-- FX33 of 156 over the next word, its last digit in the low byte, and `LoadProgram` under the pc. -/
theorem witness_NextFetchSeesDigitsAndImage :
    let s := withRegs [(5, 0x9C)] { start with I := 0x201 }
    let t := goesOn (exec (.ldB 5) s)
    let u := start.loadImage [0x60, 0x05]
    exec (.ldB 5) s = .next t ∧ s.FAULT.cause = none ∧ t.FAULT.cause = none ∧
    t.pc.toNat = s.I.toNat + (1 : Fin 3).val ∧ t.pc.toNat + 1 = s.I.toNat + (2 : Fin 3).val ∧ t.fetchWord = 0x0506 ∧
    hostOp (.loadProgram [0x60, 0x05]) start = .next (u, .loaded) ∧ u.pc.toNat = 0x200 + 0 ∧
    u.pc.toNat + 1 = 0x200 + 1 ∧ u.fetchWord = 0x6005 :=
  ⟨rfl, by decide, by decide, by decide, by decide, by decide, rfl, by decide, by decide, by decide⟩
/-- N = 0 anywhere, and the last rectangle that fits with its last row in the last byte of memory. -/
theorem witness_DrawFlipsExactlyTheSpritePixels :
    let s := withRegs [(0, 56), (1, 31)] { start with I := 0xFFF }
    (0 : Fin 16).val = 0 ∧ s.I.toNat + 1 - 1 ≤ 0xFFF ∧ ((s.readV 1).toNat + 1 - 1) * 64 + (s.readV 0).toNat + 7 ≤ 2047 := by
  decide
/-- A pixel that is covered and lit, a cell that is not covered. -/
theorem witness_spriteCovers :
    let s := ({ start with I := 0x300, fb := [66] } : State).writeBytes 0x300 [0x81]
    spriteCovers s 2 1 1 66 ∧ s.fb.read 66 = true ∧ ¬ spriteCovers s 2 1 1 67 := by
  refine ⟨⟨0, by decide, 0, by decide, by decide, by decide⟩, by decide, ?_⟩
  rintro ⟨r, hr, c, hc, hb, hi⟩
  obtain rfl : r = 0 := by omega
  obtain rfl : c = 1 := by omega
  exact absurd hb (by decide)
theorem witness_DrawOutsideBoundsFaults :
    let s := withRegs [(0, 57), (1, 31)]
    (1 : Fin 16).val ≠ 0 ∧ 0xFFF < ({ start with I := 0x1000 } : State).I.toNat + 1 - 1 ∧ s.I.toNat + 1 - 1 ≤ 0xFFF ∧
      2047 < ((s.readV 1).toNat + 1 - 1) * 64 + (s.readV 0).toNat + 7 := by decide
/-- T44a and T44b: a first and a second draw, on a screen that was empty. -/
theorem witness_DrawingTwiceRestoresTheScreen :
    let s := withRegs [(0, 2), (1, 1)] (({ start with I := 0x300 } : State).writeBytes 0x300 [0x81])
    let t := goesOn (exec (.drw 0 1 1) s)
    (0 : Reg) ≠ VF ∧ (1 : Reg) ≠ VF ∧ s.FAULT.cause = none ∧ exec (.drw 0 1 1) s = .next t ∧ t.FAULT.cause = none ∧
    exec (.drw 0 1 1) t = .next (goesOn (exec (.drw 0 1 1) t)) ∧ t.fb = [66, 73] ∧ s.fb.read 66 = false :=
  ⟨by decide, by decide, by decide, rfl, by decide, rfl, by decide, by decide⟩
theorem witness_KeySkipsTestTheNamedKey :
    ((withRegs [(2, 15)]).readV 2).toNat = (15 : Fin 16).val ∧ 15 < ((withRegs [(2, 16)]).readV 2).toNat := by decide
theorem witness_WaitForKeyTakesTheLowest :
    let s := (start.setKey 9 true).setKey 4 true
    s.keyDown 4 = true ∧ (∀ j < (4 : Fin 16), s.keyDown j = false) ∧ (∀ k, (at16 0xF30A).keyDown k = false) ∧
    (at16 0xF30A).fetched = .row (.ldVxK 3) := by decide
theorem witness_timer_transfers :
    (at16 0xF307).fetches ∧ (at16 0xF307).fetched = .row (.ldVxDt 3) ∧
    (at16 0xF315).fetches ∧ (at16 0xF315).fetched = .row (.ldDtVx 3) ∧
    (at16 0xF318).fetches ∧ (at16 0xF318).fetched = .row (.ldStVx 3) :=
  ⟨⟨rfl, by decide⟩, by decide, ⟨rfl, by decide⟩, by decide, ⟨rfl, by decide⟩, by decide⟩
/-- H3 and H4: the largest image that is loaded and the smallest that is not. -/
theorem witness_LoadProgramCopiesTheImage :
    (List.replicate 3583 (0xFF : Byte)).length + 0x200 < 4096 ∧ 4096 ≤ (List.replicate 3584 (0xFF : Byte)).length + 0x200 := by
  rw [List.length_replicate, List.length_replicate]; decide
theorem witness_SetKeyStateWritesOneKey : (15 : Nat) < 16 ∧ 15 < (16 : Nat) := by decide
theorem witness_DisplayAccessorsAndRedrawFlag :
    hostOp .clearRedrawFlag State.reset = .next (State.reset.setNeedsRedraw false, .nothing) ∧
      State.reset.needsRedraw = true ∧ (State.reset.setNeedsRedraw false).needsRedraw = false := ⟨rfl, rfl, rfl⟩
/-- R261: a latch with each cause, and the code the table gives it. -/
theorem witness_every_cause_is_read_with_its_code :
    let read (f : Fault) := hostOp .readFault (start.latch ⟨f, 0⟩ 0x1234)
    let reply (f : Fault) (code : Nat) : Host.Outcome (State × HostReply) Fault Refusal :=
      .next (start.latch ⟨f, 0⟩ 0x1234, .fault code 0x200 0x1234)
    read .fetchOutOfBounds = reply .fetchOutOfBounds 1 ∧ read .stackOverflow = reply .stackOverflow 2 ∧
    read .stackUnderflow = reply .stackUnderflow 3 ∧ read .memoryOutOfBounds = reply .memoryOutOfBounds 4 ∧
    read .framebufferOutOfBounds = reply .framebufferOutOfBounds 5 ∧
    read .keyIndexOutOfRange = reply .keyIndexOutOfRange 6 ∧
    hostOp .readFault start = .next (start, .fault 0 0 0) := ⟨rfl, rfl, rfl, rfl, rfl, rfl, rfl⟩
theorem witness_HostReadsFaultAndOnlyResetClearsIt :
    let s := start.latch ⟨.stackOverflow, 0x200⟩ 0x2200
    s.faulted ∧ hostOp .reset s = .next (s.hostReset, .nothing) ∧ hostOp .cycle s = .next (s, .nothing) ∧
      HostOp.cycle ≠ .reset := ⟨rfl, rfl, rfl, by decide⟩
theorem witness_OnlyResetBeforeTheFirstReset : HostOp.reset = .reset ∧ HostOp.loadProgram [] ≠ .reset := by decide
/-- Parked at 0x200, on a dead word of each kind, and waiting for a key. -/
theorem witness_RestingStatesRepeat :
    (at16 0x1200).parked ∧ (at16 0x5AB1).onDeadWord ∧ start.onDeadWord ∧ (at16 0xF30A).waitingForKey ∧
      start.DT = 0 ∧ start.ST = 0 :=
  ⟨⟨⟨rfl, by decide⟩, by decide, rfl, rfl⟩, ⟨⟨rfl, by decide⟩, .inl (by decide)⟩, ⟨⟨rfl, by decide⟩, .inr ⟨0, by decide⟩⟩,
    ⟨⟨rfl, by decide⟩, ⟨3, by decide⟩, by decide⟩, rfl, rfl⟩

end Sys2Proof.Tests
end

section
/-! PROOFS. The skips on an immediate (R143, R144): the words they are read from, what they do, and obligation O37. -/

namespace Sys2Proof

/-- The high nibble of a word in format XK is its family digit (R91, R93). -/
theorem nibble3_formatXK {h : Nat} (hh : h < 16) (x : Reg) (kk : Byte) : nibble (formatXK h x kk) 3 = h := by
  have hx := x.isLt
  have hkk := kk.isLt
  exact nibble3_of_toNat (n := x.val * 0x100 + kk.toNat) (by rw [formatXK_toNat hh]; omega) (by omega)

theorem decodeWord_formatXK_seImm (x : Reg) (kk : Byte) : decodeWord (formatXK 0x3 x kk) = .ok (.seImm x kk) := by
  have hh : 0x3 < 16 := by decide
  simp [decodeWord, nibble3_formatXK hh, fieldX_formatXK hh, fieldKK_formatXK hh]

theorem decodeWord_formatXK_sneImm (x : Reg) (kk : Byte) : decodeWord (formatXK 0x4 x kk) = .ok (.sneImm x kk) := by
  have hh : 0x4 < 16 := by decide
  simp [decodeWord, nibble3_formatXK hh, fieldX_formatXK hh, fieldKK_formatXK hh]

end Sys2Proof

namespace Sys2Proof.Machine

/-- A skip touches pc only, whether or not its condition holds (R148). -/
theorem sameBut_skipIf (s : State) (c : Bool) : sameBut [.pc] s (s.skipIf c) := by
  apply sameBut_of_fields <;> simp

theorem exec_seImm (x : Reg) (kk : Byte) (s : State) :
    exec (.seImm x kk) s = .next (s.skipIf (s.readV x == kk)) := rfl

theorem exec_sneImm (x : Reg) (kk : Byte) (s : State) :
    exec (.sneImm x kk) s = .next (s.skipIf (s.readV x != kk)) := rfl

/-- Settles O37: both words are in format XK, and both instructions are one `skipIf` on the byte comparison. -/
theorem skipsOnImmediate : Obligations.SkipsOnImmediate := by
  intro x kk s
  refine ⟨⟨decodeWord_formatXK_seImm x kk, _, exec_seImm x kk s, sameBut_skipIf s _, ?_⟩,
    ⟨decodeWord_formatXK_sneImm x kk, _, exec_sneImm x kk s, sameBut_skipIf s _, ?_⟩⟩
  · simp only [State.skipIf_pc, beq_iff_eq]
  · simp only [State.skipIf_pc, bne_iff_ne]

end Sys2Proof.Machine
end

section
/-! PROOFS. The instructions that write one register and no flag (R170 to R175): the words they are read from, what they
do, and obligations O27, O28 and O29. -/

namespace Sys2Proof

theorem decodeWord_formatXK_ldImm (x : Reg) (kk : Byte) : decodeWord (formatXK 0x6 x kk) = .ok (.ldImm x kk) := by
  have hh : 0x6 < 16 := by decide
  simp [decodeWord, nibble3_formatXK hh, fieldX_formatXK hh, fieldKK_formatXK hh]

theorem decodeWord_formatXK_addImm (x : Reg) (kk : Byte) : decodeWord (formatXK 0x7 x kk) = .ok (.addImm x kk) := by
  have hh : 0x7 < 16 := by decide
  simp [decodeWord, nibble3_formatXK hh, fieldX_formatXK hh, fieldKK_formatXK hh]

/-- The high nibble of a word in format XYN is its family digit (R91, R93). -/
theorem nibble3_formatXYN {h : Nat} (hh : h < 16) (x y : Reg) (l : Fin 16) : nibble (formatXYN h x y l) 3 = h := by
  have hx := x.isLt
  have hy := y.isLt
  have hl := l.isLt
  exact nibble3_of_toNat (n := x.val * 0x100 + y.val * 0x10 + l.val) (by rw [formatXYN_toNat hh]; omega) (by omega)

/-- The low nibble of a word in format XYN is its last digit (R91, R93). -/
theorem nibble0_formatXYN {h : Nat} (hh : h < 16) (x y : Reg) (l : Fin 16) : nibble (formatXYN h x y l) 0 = l.val :=
  nibble0_of_toNat (n := h * 0x100 + x.val * 0x10 + y.val) (by rw [formatXYN_toNat hh]; omega) l.isLt

/-- A word 8XYL is read by the table of family 8 (R94). -/
theorem decodeWord_formatXYN_family8 (x y : Reg) (l : Fin 16) :
    decodeWord (formatXYN 0x8 x y l) = decodeFamily8 (formatXYN 0x8 x y l) := by
  simp [decodeWord, nibble3_formatXYN (show 0x8 < 16 by decide)]

theorem decodeFamily8_formatXYN_ldReg (x y : Reg) : decodeFamily8 (formatXYN 0x8 x y 0x0) = .ok (.ldReg x y) := by
  have hh : 0x8 < 16 := by decide
  simp [decodeFamily8, nibble0_formatXYN hh, fieldX_formatXYN hh, fieldY_formatXYN hh]

theorem decodeFamily8_formatXYN_orReg (x y : Reg) : decodeFamily8 (formatXYN 0x8 x y 0x1) = .ok (.orReg x y) := by
  have hh : 0x8 < 16 := by decide
  simp [decodeFamily8, nibble0_formatXYN hh, fieldX_formatXYN hh, fieldY_formatXYN hh]

theorem decodeFamily8_formatXYN_andReg (x y : Reg) : decodeFamily8 (formatXYN 0x8 x y 0x2) = .ok (.andReg x y) := by
  have hh : 0x8 < 16 := by decide
  simp [decodeFamily8, nibble0_formatXYN hh, fieldX_formatXYN hh, fieldY_formatXYN hh]

theorem decodeFamily8_formatXYN_xorReg (x y : Reg) : decodeFamily8 (formatXYN 0x8 x y 0x3) = .ok (.xorReg x y) := by
  have hh : 0x8 < 16 := by decide
  simp [decodeFamily8, nibble0_formatXYN hh, fieldX_formatXYN hh, fieldY_formatXYN hh]

end Sys2Proof

namespace Sys2Proof.Machine

/-- The number of a word 8XYL, written with its last digit beside its first as the statements write it. -/
theorem wordReads_family8 {x y : Reg} {i : Instr} (l : Fin 16) (h : decodeFamily8 (formatXYN 0x8 x y l) = .ok i) :
    wordReads (0x8000 + l.val + x.val * 0x100 + y.val * 0x10) i := by
  have hn : 0x8000 + l.val + x.val * 0x100 + y.val * 0x10 =
      0x8 * 0x1000 + x.val * 0x100 + y.val * 0x10 + l.val := by omega
  rw [wordReads, hn]
  exact (decodeWord_formatXYN_family8 x y l).trans h

/-- What the next state of `setReg` holds in the register written. -/
theorem readV_writeV_advance_self (x : Reg) (b : Byte) (s : State) : (s.writeV x b).advance.readV x = b := by
  rw [State.readV_advance, State.readV_writeV_self]

/-- What the next state of `setReg` holds everywhere else: pc advances, and no other register, VF included, and no
other piece of state changes. -/
theorem writeV_advance_frame (x : Reg) (b : Byte) (s : State) :
    (s.writeV x b).advance.pc = s.pc + 2 ∧ regsSameBut [x] s (s.writeV x b).advance ∧
      sameBut [.V, .pc] s (s.writeV x b).advance := by
  refine ⟨rfl, fun r hr => ?_, ?_⟩
  · exact State.readV_writeV_ne s (List.ne_of_not_mem_cons hr) b
  · apply sameBut_of_fields <;> simp

theorem exec_ldImm (x : Reg) (kk : Byte) (s : State) : exec (.ldImm x kk) s = .next (s.writeV x kk).advance := rfl

theorem exec_addImm (x : Reg) (kk : Byte) (s : State) :
    exec (.addImm x kk) s = .next (s.writeV x (s.readV x + kk)).advance := rfl

theorem exec_ldReg (x y : Reg) (s : State) : exec (.ldReg x y) s = .next (s.writeV x (s.readV y)).advance := rfl

theorem exec_orReg (x y : Reg) (s : State) :
    exec (.orReg x y) s = .next (s.writeV x (s.readV x ||| s.readV y)).advance := rfl

theorem exec_andReg (x y : Reg) (s : State) :
    exec (.andReg x y) s = .next (s.writeV x (s.readV x &&& s.readV y)).advance := rfl

theorem exec_xorReg (x y : Reg) (s : State) :
    exec (.xorReg x y) s = .next (s.writeV x (s.readV x ^^^ s.readV y)).advance := rfl

/-- Settles O27: the word is in format XK, and the instruction writes KK to its one register. -/
theorem loadImmediateSetsRegister : Obligations.LoadImmediateSetsRegister := by
  intro x kk s
  exact ⟨decodeWord_formatXK_ldImm x kk, _, exec_ldImm x kk s, readV_writeV_advance_self x kk s,
    writeV_advance_frame x kk s⟩

/-- Settles O28: the word is in format XK, and the byte sum written to Vx is the sum mod 256. -/
theorem addImmediateWrapsWithoutFlag : Obligations.AddImmediateWrapsWithoutFlag := by
  intro x kk s
  refine ⟨decodeWord_formatXK_addImm x kk, _, exec_addImm x kk s, ?_, writeV_advance_frame x _ s⟩
  rw [readV_writeV_advance_self]
  exact BitVec.toNat_add ..

/-- Settles O29: the four words are read by the table of family 8, and each instruction writes its one register with Vy
or a bitwise operation of Vx and Vy. -/
theorem copyAndLogicSetRegister : Obligations.CopyAndLogicSetRegister := by
  intro x y s
  refine ⟨⟨wordReads_family8 0x0 (decodeFamily8_formatXYN_ldReg x y), _, exec_ldReg x y s,
      ?_, writeV_advance_frame x _ s⟩,
    ⟨wordReads_family8 0x1 (decodeFamily8_formatXYN_orReg x y), _, exec_orReg x y s,
      fun b => ?_, writeV_advance_frame x _ s⟩,
    ⟨wordReads_family8 0x2 (decodeFamily8_formatXYN_andReg x y), _, exec_andReg x y s,
      fun b => ?_, writeV_advance_frame x _ s⟩,
    ⟨wordReads_family8 0x3 (decodeFamily8_formatXYN_xorReg x y), _, exec_xorReg x y s,
      fun b => ?_, writeV_advance_frame x _ s⟩⟩
  · exact readV_writeV_advance_self x _ s
  · rw [readV_writeV_advance_self, BitVec.getLsbD_or]
  · rw [readV_writeV_advance_self, BitVec.getLsbD_and]
  · rw [readV_writeV_advance_self, BitVec.getLsbD_xor]

end Sys2Proof.Machine
end

section
/-! PROOFS. The instructions that set I and no register (R200, R202): the words they are read from, what they do, and
obligation O39. -/

namespace Sys2Proof

/-- The high nibble of a word in format A is its family digit (R91, R93). -/
theorem nibble3_formatA {h : Nat} (hh : h < 16) (nnn : Addr12) : nibble (formatA h nnn) 3 = h :=
  nibble3_of_toNat (formatA_toNat hh nnn) nnn.isLt

theorem decodeWord_formatA_ldI (nnn : Addr12) : decodeWord (formatA 0xA nnn) = .ok (.ldI nnn) := by
  have hh : 0xA < 16 := by decide
  simp [decodeWord, nibble3_formatA hh, fieldNNN_formatA hh]

/-- The low byte of a word in format XK is KK (R92, R93). -/
theorem lowByte_formatXK {h : Nat} (hh : h < 16) (x : Reg) (kk : Byte) :
    (formatXK h x kk).toNat % 0x100 = kk.toNat := by
  have hkk := kk.isLt
  rw [formatXK_toNat hh]
  omega

/-- A word FXKK is read by the table of family F (R94). -/
theorem decodeWord_formatXK_familyF (x : Reg) (kk : Byte) :
    decodeWord (formatXK 0xF x kk) = decodeFamilyF (formatXK 0xF x kk) := by
  simp [decodeWord, nibble3_formatXK (show 0xF < 16 by decide)]

theorem decodeFamilyF_formatXK_ldF (x : Reg) : decodeFamilyF (formatXK 0xF x 0x29) = .ok (.ldF x) := by
  have hh : 0xF < 16 := by decide
  simp [decodeFamilyF, lowByte_formatXK hh, fieldX_formatXK hh]

end Sys2Proof

namespace Sys2Proof.Machine

/-- The number of a word FXKK, written with its low byte beside its first digit as the statements write it. -/
theorem wordReads_familyF {x : Reg} {i : Instr} (kk : Byte) (h : decodeFamilyF (formatXK 0xF x kk) = .ok i) :
    wordReads (0xF000 + kk.toNat + x.val * 0x100) i := by
  have hn : 0xF000 + kk.toNat + x.val * 0x100 = 0xF * 0x1000 + x.val * 0x100 + kk.toNat := by omega
  rw [wordReads, hn]
  exact (decodeWord_formatXK_familyF x kk).trans h

theorem zextAddr_toNat (nnn : Addr12) : (zextAddr nnn).toNat = nnn.toNat :=
  BitVec.toNat_setWidth_of_le (by decide)

theorem zextByte_toNat (b : Byte) : (zextByte b).toNat = b.toNat :=
  BitVec.toNat_setWidth_of_le (by decide)

/-- Five times a byte, at most 1275, is exact in a word (R202). -/
theorem zextByte_mul_five_toNat (b : Byte) : (zextByte b * 5).toNat = b.toNat * 5 := by
  have hb := b.isLt
  rw [BitVec.toNat_mul, zextByte_toNat]
  exact Nat.mod_eq_of_lt (show b.toNat * 5 < 2 ^ 16 by omega)

/-- Setting I and advancing touches nothing but I and pc, and no register (R200, R202). -/
theorem sameBut_setI_advance (s : State) (v : Word) : sameBut [.I, .pc] s (s.setI v).advance := by
  apply sameBut_of_fields <;> simp

theorem exec_ldI (nnn : Addr12) (s : State) : exec (.ldI nnn) s = .next (s.setI (zextAddr nnn)).advance := rfl

theorem exec_ldF (x : Reg) (s : State) : exec (.ldF x) s = .next (s.setI (zextByte (s.readV x) * 5)).advance := rfl

/-- Settles O39: both instructions set I and advance, the one to NNN, the other to a product that does not wrap. -/
theorem indexLoads : Obligations.IndexLoads := by
  intro nnn x s
  exact ⟨⟨decodeWord_formatA_ldI nnn, _, exec_ldI nnn s, zextAddr_toNat nnn, rfl, sameBut_setI_advance s _⟩,
    ⟨wordReads_familyF 0x29 (decodeFamilyF_formatXK_ldF x), _, exec_ldF x s, zextByte_mul_five_toNat (s.readV x), rfl,
      sameBut_setI_advance s _⟩⟩

end Sys2Proof.Machine
end

section
/-! PROOFS. The delay timer's transfers (R243, R244): the words they are read from, what they do, the cycle that runs
them, and obligation O52. -/

namespace Sys2Proof

theorem decodeFamilyF_formatXK_ldVxDt (x : Reg) : decodeFamilyF (formatXK 0xF x 0x07) = .ok (.ldVxDt x) := by
  have hh : 0xF < 16 := by decide
  simp [decodeFamilyF, lowByte_formatXK hh, fieldX_formatXK hh]

theorem decodeFamilyF_formatXK_ldDtVx (x : Reg) : decodeFamilyF (formatXK 0xF x 0x15) = .ok (.ldDtVx x) := by
  have hh : 0xF < 16 := by decide
  simp [decodeFamilyF, lowByte_formatXK hh, fieldX_formatXK hh]

end Sys2Proof

namespace Sys2Proof.Machine

theorem exec_ldVxDt (x : Reg) (s : State) : exec (.ldVxDt x) s = .next (s.writeV x s.DT).advance := rfl

theorem exec_ldDtVx (x : Reg) (s : State) : exec (.ldDtVx x) s = .next (s.setDT (s.readV x)).advance := rfl

/-- Setting DT and advancing touches nothing but DT and pc, and no register (R244). -/
theorem sameBut_setDT_advance (s : State) (v : Byte) : sameBut [.DT, .pc] s (s.setDT v).advance := by
  apply sameBut_of_fields <;> simp

/-- A cycle whose instruction latches no fault is that instruction followed by the timer post-step (R120, R130). -/
theorem step_eq_tick_of_exec {s t : State} {i : Instr} (hf : s.fetches) (hi : s.fetched = .row i)
    (he : exec i s = .next t) (hn : t.FAULT.cause = none) : step s = .next t.tick := by
  have hd : execDecoded s.fetched s = .next t := by rw [hi]; exact he
  rw [step_of_fetches hf, hd, endStep, endCycle_of_none hn]

/-- Settles O52: each instruction writes its one target from the state before the cycle, and the post-step, which comes
after it, lowers the DT it left: the old one under FX07, Vx under FX15. -/
theorem delayTimerTransfers : Obligations.DelayTimerTransfers := by
  intro x s
  refine ⟨⟨wordReads_familyF 0x07 (decodeFamilyF_formatXK_ldVxDt x), ?_, fun hf hi => ?_⟩,
    ⟨wordReads_familyF 0x15 (decodeFamilyF_formatXK_ldDtVx x), ?_, fun hf hi => ?_⟩⟩
  · exact ⟨_, exec_ldVxDt x s, readV_writeV_advance_self x s.DT s, writeV_advance_frame x s.DT s⟩
  · exact ⟨_, step_eq_tick_of_exec hf hi (exec_ldVxDt x s) hf.1, readV_writeV_advance_self x s.DT s,
      countDown_toNat s.DT⟩
  · exact ⟨_, exec_ldDtVx x s, rfl, rfl, sameBut_setDT_advance s _⟩
  · exact ⟨_, step_eq_tick_of_exec hf hi (exec_ldDtVx x s) hf.1, countDown_toNat (s.readV x)⟩

end Sys2Proof.Machine
end

section
/-! PROOFS. The host's display accessors (R276, R277, R278), the redraw flag through instructions and cycles (R35), and
obligation O57. -/

namespace Sys2Proof.Machine

/-! ### No instruction makes the redraw flag false (R35) -/

/-- An outcome reached from `s` does not make the redraw flag false: if it is a next state and the flag was true, the
flag is true there. -/
def keepsRedrawSet (s : State) (r : Result) : Prop :=
  ∀ t, r = .next t → s.needsRedraw = true → t.needsRedraw = true

theorem keepsRedrawSet_next {s t : State} (h : s.needsRedraw = true → t.needsRedraw = true) :
    keepsRedrawSet s (.next t) := by
  rintro _ ⟨⟩
  exact h

theorem keepsRedrawSet_raise (s : State) (r : Raise) (w : Word) : keepsRedrawSet s (raise r w s) :=
  keepsRedrawSet_next id

theorem keepsRedrawSet_guarded {f : Option Raise} {w : Word} {s e : State}
    (h : s.needsRedraw = true → e.needsRedraw = true) : keepsRedrawSet s (guarded f w s e) := by
  intro t ht
  obtain ⟨r, -, rfl⟩ | ⟨-, rfl⟩ := guarded_cases ht
  · exact id
  · exact h

theorem State.loadRegs_needsRedraw (s : State) (base : Nat) (ks : List Reg) :
    (s.loadRegs base ks).needsRedraw = s.needsRedraw := by
  obtain ⟨v, hv⟩ := s.loadRegs_eq base ks s
  rw [State.loadRegs, hv]

theorem keepsRedrawSet_execRet (s : State) : keepsRedrawSet s (execRet s) := by
  unfold execRet
  split
  · exact keepsRedrawSet_raise s _ _
  · next v t hpop =>
    obtain ⟨-, -, rfl⟩ := s.pop?_eq_some hpop
    exact keepsRedrawSet_next id

theorem keepsRedrawSet_execCall (nnn : Addr12) (s : State) : keepsRedrawSet s (execCall nnn s) := by
  unfold execCall
  split
  · exact keepsRedrawSet_raise s _ _
  · next t hpush =>
    obtain ⟨-, rfl⟩ := s.push?_eq_some hpush
    exact keepsRedrawSet_next id

theorem keepsRedrawSet_execLdVxK (x : Reg) (s : State) : keepsRedrawSet s (execLdVxK x s) := by
  unfold execLdVxK
  split <;> exact keepsRedrawSet_next id

/-- Two instructions set the flag; every other one leaves it, whether it always completes, faults first or branches. -/
theorem keepsRedrawSet_exec (i : Instr) (s : State) : keepsRedrawSet s (exec i s) := by
  cases i with
  | cls => exact keepsRedrawSet_next fun _ => rfl
  | drw _ _ _ => exact keepsRedrawSet_guarded fun _ => rfl
  | ret => exact keepsRedrawSet_execRet s
  | call nnn => exact keepsRedrawSet_execCall nnn s
  | ldVxK x => exact keepsRedrawSet_execLdVxK x s
  | skp _ | sknp _ | ldB _ | stRegs _ => exact keepsRedrawSet_guarded id
  | ldRegs _ => exact keepsRedrawSet_guarded (s.loadRegs_needsRedraw _ _).trans
  | sys _ | jp _ | seImm _ _ | sneImm _ _ | seReg _ _ | sneReg _ _ | jpV0 _ | ldImm _ _ | addImm _ _ | ldReg _ _
  | orReg _ _ | andReg _ _ | xorReg _ _ | addReg _ _ | sub _ _ | shr _ _ | subn _ _ | shl _ _ | rnd _ _ | ldI _
  | addI _ | ldF _ | ldVxDt _ | ldDtVx _ | ldStVx _ => exact keepsRedrawSet_next id

/-! ### No cycle makes the redraw flag false (R35) -/

theorem keepsRedrawSet_execDecoded (d : Decoded) (s : State) : keepsRedrawSet s (execDecoded d s) := by
  cases d with
  | row i => exact keepsRedrawSet_exec i s
  | placeholder | unmatched => exact keepsRedrawSet_next id

theorem State.endCycle_needsRedraw (s : State) : s.endCycle.needsRedraw = s.needsRedraw := by
  unfold State.endCycle
  split <;> rfl

theorem keepsRedrawSet_step (s : State) : keepsRedrawSet s (step s) := by
  intro t ht
  obtain ⟨-, rfl⟩ | ⟨-, -, rfl⟩ | ⟨-, u, hu, rfl⟩ := step_cases ht
  · exact id
  · exact id
  · rw [State.endCycle_needsRedraw]
    exact keepsRedrawSet_execDecoded _ s u hu

/-! ### The host's moves -/

/-- The move `Cycle` answers a next state only where `step` does, and that one. -/
theorem step_of_hostOp_cycle {s t : State} {reply : HostReply} (h : hostOp .cycle s = .next (t, reply)) :
    step s = .next t := by
  simp only [hostOp] at h
  split at h
  · next u hu =>
    cases h
    exact hu
  · cases h
  · cases h

/-- Of the host's moves only `ClearRedrawFlag` makes the redraw flag false (R277): `Reset` sets it, a cycle keeps it
set, and the others leave it. -/
theorem needsRedraw_of_hostOp {op : HostOp} {s t : State} {reply : HostReply} (hop : op ≠ .clearRedrawFlag)
    (h : hostOp op s = .next (t, reply)) (hs : s.needsRedraw = true) : t.needsRedraw = true := by
  cases op with
  | reset =>
    cases h
    rfl
  | loadProgram image =>
    simp only [hostOp] at h
    split at h <;> cases h <;> exact hs
  | cycle => exact keepsRedrawSet_step s t (step_of_hostOp_cycle h) hs
  | setKeyState k pressed =>
    simp only [hostOp] at h
    split at h <;> cases h
    exact hs
  | clearRedrawFlag => exact absurd rfl hop
  | loadFails | needsRedraw | getFramebuffer | readFault =>
    cases h
    exact hs

theorem State.pixels_length (s : State) : s.pixels.length = fbSize := by
  rw [State.pixels, List.length_map, List.length_range]

theorem State.pixels_getElem (s : State) (idx : Nat) (h : idx < s.pixels.length) :
    s.pixels[idx] = if s.fb.read idx = true then 1 else 0 := by
  simp only [State.pixels, List.getElem_map, List.getElem_range, pixel]

theorem sameBut_setNeedsRedraw (s : State) (b : Bool) : sameBut [.needsRedraw] s (s.setNeedsRedraw b) := by
  apply sameBut_of_fields <;> simp

/-- Settles O57: the two reads answer the state they were asked in, the clearing one updates the flag only, and a true
flag survives every other move, a cycle because every instruction keeps it. -/
theorem displayAccessorsAndRedrawFlag : Obligations.DisplayAccessorsAndRedrawFlag := by
  intro s
  refine ⟨rfl, ⟨_, rfl, rfl, sameBut_setNeedsRedraw s false⟩, ⟨s.pixels, rfl, s.pixels_length, s.pixels_getElem⟩, ?_⟩
  intro op t reply h hs ht
  by_contra hop
  exact absurd (needsRedraw_of_hostOp hop h hs) (by simp [ht])

end Sys2Proof.Machine
end

section
/-! PROOFS. The decoder and the encoder (R90 to R99): obligations O1, O2, O3, O4, O5, and the numbers of the words that
the statements write out. -/

namespace Sys2Proof

/-! ### Encode, then decode -/

/-- A word 0NNN other than the two exact ones is read as SYS (R95). -/
theorem decodeWord_formatA_sys {nnn : Addr12} (h0 : nnn ≠ 0x0E0) (hE : nnn ≠ 0x0EE) :
    decodeWord (formatA 0x0 nnn) = .ok (.sys nnn) := by
  have hh : 0x0 < 16 := by decide
  have hn : (formatA 0x0 nnn).toNat = nnn.toNat := by rw [formatA_toNat hh]; omega
  have n0 : nnn.toNat ≠ 0x0E0 := fun e => h0 (BitVec.eq_of_toNat_eq e)
  have nE : nnn.toNat ≠ 0x0EE := fun e => hE (BitVec.eq_of_toNat_eq e)
  simp [decodeWord, nibble3_formatA hh, fieldNNN_formatA hh, hn]

/-- Settles O2: in each format the nibbles that the decoder dispatches on are the digits the encoder wrote, and the
fields read back are the operands. -/
theorem encodeThenDecode : Obligations.EncodeThenDecode := by
  intro i hwf
  cases i with
  | cls | ret => rfl
  | sys nnn =>
    simp only [Instr.wellFormed, Bool.and_eq_true, bne_iff_ne] at hwf
    exact decodeWord_formatA_sys hwf.1 hwf.2
  | jp _ | call _ | ldI _ | jpV0 _ => simp [encode, decodeWord, nibble3_formatA, fieldNNN_formatA]
  | seImm _ _ | sneImm _ _ | ldImm _ _ | addImm _ _ | rnd _ _ =>
    simp [encode, decodeWord, nibble3_formatXK, fieldX_formatXK, fieldKK_formatXK]
  | seReg _ _ | sneReg _ _ | drw _ _ _ =>
    simp [encode, decodeWord, nibble3_formatXYN, nibble0_formatXYN, fieldX_formatXYN, fieldY_formatXYN,
      fieldN_formatXYN]
  | ldReg _ _ | orReg _ _ | andReg _ _ | xorReg _ _ | addReg _ _ | sub _ _ | shr _ _ | subn _ _ | shl _ _ =>
    simp [encode, decodeWord_formatXYN_family8, decodeFamily8, nibble0_formatXYN, fieldX_formatXYN, fieldY_formatXYN]
  | skp _ | sknp _ => simp [encode, decodeWord, nibble3_formatXK, lowByte_formatXK, fieldX_formatXK]
  | ldVxDt _ | ldVxK _ | ldDtVx _ | ldStVx _ | addI _ | ldF _ | ldB _ | stRegs _ | ldRegs _ =>
    simp [encode, decodeWord_formatXK_familyF, decodeFamilyF, lowByte_formatXK, fieldX_formatXK]

/-- Settles O1: the decoder, evaluated on the words written out. -/
theorem sampleWordsDecode : Obligations.SampleWordsDecode := by
  unfold Obligations.SampleWordsDecode
  decide

/-! ### Decode, then encode -/

theorem nibble3_eq (w : Word) : nibble w 3 = w.toNat / 0x1000 := by
  have := w.isLt
  unfold nibble
  omega

/-- A word with family digit h is the word in format A of its field NNN (R93). -/
theorem formatA_of_nibble3 {w : Word} {h : Nat} (h3 : nibble w 3 = h) : formatA h (fieldNNN w) = w := by
  rw [← h3, nibble3_eq]
  exact (word_eq_formatA w).symm

theorem formatXK_of_nibble3 {w : Word} {h : Nat} (h3 : nibble w 3 = h) : formatXK h (fieldX w) (fieldKK w) = w := by
  rw [← h3, nibble3_eq]
  exact (word_eq_formatXK w).symm

theorem formatXK_of_lowByte {w : Word} {h : Nat} {kk : Byte} (h3 : nibble w 3 = h)
    (hkk : w.toNat % 0x100 = kk.toNat) : formatXK h (fieldX w) kk = w := by
  have : fieldKK w = kk := BitVec.eq_of_toNat_eq (by rw [fieldKK, BitVec.toNat_ofNat]; exact hkk)
  rw [← this, formatXK_of_nibble3 h3]

theorem formatXYN_of_nibble3 {w : Word} {h : Nat} (h3 : nibble w 3 = h) :
    formatXYN h (fieldX w) (fieldY w) (fieldN w) = w := by
  rw [← h3, nibble3_eq]
  exact (word_eq_formatXYN w).symm

theorem formatXYN_of_nibble0 {w : Word} {h : Nat} {l : Fin 16} (h3 : nibble w 3 = h) (h0 : nibble w 0 = l.val) :
    formatXYN h (fieldX w) (fieldY w) l = w := by
  have : fieldN w = l := Fin.ext (by simpa [fieldN, nibble] using h0)
  rw [← this, formatXYN_of_nibble3 h3]

/-- Family 8, decoded, encodes to the word (R94). -/
theorem encode_of_decodeFamily8 {w : Word} {i : Instr} (h3 : nibble w 3 = 0x8) (h : decodeFamily8 w = .ok i) :
    i.wellFormed = true ∧ encode i = w := by
  unfold decodeFamily8 at h
  split at h <;> cases h <;> next h0 => exact ⟨rfl, formatXYN_of_nibble0 h3 h0⟩

theorem encode_of_decodeFamilyF {w : Word} {i : Instr} (h3 : nibble w 3 = 0xF) (h : decodeFamilyF w = .ok i) :
    i.wellFormed = true ∧ encode i = w := by
  unfold decodeFamilyF at h
  split at h <;> cases h <;> next hb => exact ⟨rfl, formatXK_of_lowByte h3 hb⟩

/-- Settles O3: the family digit and the literal digits the decoder compared, with the fields it read, are the whole
word. -/
theorem decodeThenEncode : Obligations.DecodeThenEncode := by
  intro w i h
  unfold decodeWord at h
  split at h <;> rename_i h3
  case h_1 =>
    split at h <;> cases h
    · next hw => exact ⟨rfl, BitVec.eq_of_toNat_eq hw.symm⟩
    · next hw => exact ⟨rfl, BitVec.eq_of_toNat_eq hw.symm⟩
    · next h0 hE =>
      have hn : (fieldNNN w).toNat = w.toNat := by
        rw [← formatA_of_nibble3 h3, formatA_toNat (by decide), fieldNNN_formatA (by decide)]
        omega
      have n0 : fieldNNN w ≠ 0x0E0 := fun e => h0 (by rw [← hn, e]; rfl)
      have nE : fieldNNN w ≠ 0x0EE := fun e => hE (by rw [← hn, e]; rfl)
      exact ⟨by simpa [Instr.wellFormed] using And.intro n0 nE, formatA_of_nibble3 h3⟩
  case h_9 => exact encode_of_decodeFamily8 h3 h
  case h_16 => exact encode_of_decodeFamilyF h3 h
  case h_6 | h_10 =>
    split at h <;> cases h
    next h0 => exact ⟨rfl, formatXYN_of_nibble0 h3 h0⟩
  case h_15 =>
    split at h <;> cases h <;> next hb => exact ⟨rfl, formatXK_of_lowByte h3 hb⟩
  case h_14 => cases h; exact ⟨rfl, formatXYN_of_nibble3 h3⟩
  case h_2 | h_3 | h_11 | h_12 => cases h; exact ⟨rfl, formatA_of_nibble3 h3⟩
  case h_4 | h_5 | h_7 | h_8 | h_13 => cases h; exact ⟨rfl, formatXK_of_nibble3 h3⟩
  case h_17 => cases h

/-! ### The opcode map (R94, R96) -/

/-- Mask 0xFFFF leaves the whole word. -/
theorem and_FFFF_eq_iff (w p : Word) : w &&& 0xFFFF = p ↔ w.toNat = p.toNat := by
  rw [show (0xFFFF : Word) = BitVec.allOnes 16 from rfl, BitVec.and_allOnes]
  exact BitVec.toNat_inj.symm

/-- The fixed bits of a row ANNN are its family digit. -/
theorem and_F000_eq_iff (w : Word) {h : Nat} (hh : h < 16) : w &&& 0xF000 = formatA h 0 ↔ nibble w 3 = h := by
  have hn : nibble w 3 < 16 := Nat.mod_lt _ (by decide)
  rw [show w &&& 0xF000 = formatA (nibble w 3) 0 by
    conv_lhs => rw [← formatA_of_nibble3 (w := w) rfl]
    exact formatA_and_F000 hn _]
  refine ⟨fun e => ?_, fun e => by rw [e]⟩
  rw [← nibble3_formatA hn 0, e, nibble3_formatA hh]

theorem and_F00F_eq_iff (w : Word) {h : Nat} (hh : h < 16) (l : Fin 16) :
    w &&& 0xF00F = formatXYN h 0 0 l ↔ nibble w 3 = h ∧ nibble w 0 = l.val := by
  have hn : nibble w 3 < 16 := Nat.mod_lt _ (by decide)
  rw [show w &&& 0xF00F = formatXYN (nibble w 3) 0 0 (fieldN w) by
    conv_lhs => rw [← formatXYN_of_nibble3 (w := w) rfl]
    exact formatXYN_and_F00F hn _ _ _]
  have h0 : nibble w 0 = (fieldN w).val := by simp [fieldN, nibble]
  constructor
  · intro e
    rw [h0, ← nibble3_formatXYN hn 0 0 (fieldN w), ← nibble0_formatXYN hn 0 0 (fieldN w), e]
    exact ⟨nibble3_formatXYN hh 0 0 l, nibble0_formatXYN hh 0 0 l⟩
  · rintro ⟨e3, e0⟩
    rw [e3, show fieldN w = l from Fin.ext (h0.symm.trans e0)]

theorem and_F0FF_eq_iff (w : Word) {h : Nat} (hh : h < 16) (kk : Byte) :
    w &&& 0xF0FF = formatXK h 0 kk ↔ nibble w 3 = h ∧ w.toNat % 0x100 = kk.toNat := by
  have hn : nibble w 3 < 16 := Nat.mod_lt _ (by decide)
  rw [show w &&& 0xF0FF = formatXK (nibble w 3) 0 (fieldKK w) by
    conv_lhs => rw [← formatXK_of_nibble3 (w := w) rfl]
    exact formatXK_and_F0FF hn _ _]
  have hb : w.toNat % 0x100 = (fieldKK w).toNat := by rw [fieldKK, BitVec.toNat_ofNat]
  constructor
  · intro e
    rw [hb, ← nibble3_formatXK hn 0 (fieldKK w), ← lowByte_formatXK hn 0 (fieldKK w), e]
    exact ⟨nibble3_formatXK hh 0 kk, lowByte_formatXK hh 0 kk⟩
  · rintro ⟨e3, eb⟩
    rw [e3, show fieldKK w = kk from BitVec.eq_of_toNat_eq (hb.symm.trans eb)]

/-- The rows of the opcode map whose pattern has this first digit, in the map's order (R94). -/
def rowsOfFamily (h : Nat) : List OpcodeRow := opcodeRows.filter (fun r => nibble r.pattern 3 == h)

/-- Every row fixes the first digit, so a word matches rows of its own family only. -/
theorem nibble3_pattern_of_matchesWord {r : OpcodeRow} {w : Word} (hr : r ∈ opcodeRows)
    (hm : r.matchesWord w = true) : nibble r.pattern 3 = nibble w 3 := by
  have hmask : ∀ r ∈ opcodeRows, r.mask &&& 0xF000 = 0xF000 := by decide
  have hn : nibble w 3 < 16 := Nat.mod_lt _ (by decide)
  rw [OpcodeRow.matchesWord, beq_iff_eq] at hm
  rw [← and_F000_eq_iff _ hn, ← hm, BitVec.and_assoc, hmask r hr, and_F000_eq_iff _ hn]

theorem firstRow_eq_find_rowsOfFamily (w : Word) :
    firstRow w = (rowsOfFamily (nibble w 3)).find? (·.matchesWord w) := by
  rw [firstRow, rowsOfFamily, List.find?_filter]
  refine List.find?_congr fun r hr => ?_
  cases hm : r.matchesWord w with
  | false => simp
  | true => simp [nibble3_pattern_of_matchesWord hr hm]

/-- A row of a pattern that fixes all four digits. -/
def wholeWordRow (n : Nat) (p : Word) : OpcodeRow := ⟨n, p, 0xFFFF⟩

/-- A row of a pattern that fixes the first digit only, in format A, XK or XYN. -/
def digitRow (n h : Nat) : OpcodeRow := ⟨n, formatA h 0, 0xF000⟩

/-- A row of a pattern hXYl, which fixes the first and the last digit. -/
def lastDigitRow (n h : Nat) (l : Fin 16) : OpcodeRow := ⟨n, formatXYN h 0 0 l, 0xF00F⟩

/-- A row of a pattern hXkk, which fixes the first digit and the low byte. -/
def lowByteRow (n h : Nat) (kk : Byte) : OpcodeRow := ⟨n, formatXK h 0 kk, 0xF0FF⟩

theorem wholeWordRow_matchesWord (n : Nat) (p w : Word) :
    (wholeWordRow n p).matchesWord w = decide (w.toNat = p.toNat) := by
  rw [Bool.eq_iff_iff, decide_eq_true_iff, OpcodeRow.matchesWord, beq_iff_eq]
  exact and_FFFF_eq_iff w p

theorem digitRow_matchesWord (n : Nat) {h : Nat} (hh : h < 16) (w : Word) :
    (digitRow n h).matchesWord w = decide (nibble w 3 = h) := by
  rw [Bool.eq_iff_iff, decide_eq_true_iff, OpcodeRow.matchesWord, beq_iff_eq]
  exact and_F000_eq_iff w hh

theorem lastDigitRow_matchesWord (n : Nat) {h : Nat} (hh : h < 16) (l : Fin 16) (w : Word) :
    (lastDigitRow n h l).matchesWord w = decide (nibble w 3 = h ∧ nibble w 0 = l.val) := by
  rw [Bool.eq_iff_iff, decide_eq_true_iff, OpcodeRow.matchesWord, beq_iff_eq]
  exact and_F00F_eq_iff w hh l

theorem lowByteRow_matchesWord (n : Nat) {h : Nat} (hh : h < 16) (kk : Byte) (w : Word) :
    (lowByteRow n h kk).matchesWord w = decide (nibble w 3 = h ∧ w.toNat % 0x100 = kk.toNat) := by
  rw [Bool.eq_iff_iff, decide_eq_true_iff, OpcodeRow.matchesWord, beq_iff_eq]
  exact and_F0FF_eq_iff w hh kk

@[simp] theorem wholeWordRow_number (n : Nat) (p : Word) : (wholeWordRow n p).number = n := rfl
@[simp] theorem digitRow_number (n h : Nat) : (digitRow n h).number = n := rfl
@[simp] theorem lastDigitRow_number (n h : Nat) (l : Fin 16) : (lastDigitRow n h l).number = n := rfl
@[simp] theorem lowByteRow_number (n h : Nat) (kk : Byte) : (lowByteRow n h kk).number = n := rfl

/-- In a family of one row that fixes the first digit only, every word matches that row. -/
theorem firstRow_of_digitRow {w : Word} {h n : Nat} (h3 : nibble w 3 = h) (hh : h < 16)
    (hr : rowsOfFamily h = [digitRow n h]) : (firstRow w).map OpcodeRow.number = some n := by
  rw [firstRow_eq_find_rowsOfFamily, h3, hr, List.find?_cons_of_pos]
  · rfl
  · simp [digitRow_matchesWord, hh, h3]

theorem firstRow_of_lastDigitRow {w : Word} {h n : Nat} (h3 : nibble w 3 = h) (hh : h < 16)
    (hr : rowsOfFamily h = [lastDigitRow n h 0]) :
    (firstRow w).map OpcodeRow.number = if nibble w 0 = 0 then some n else none := by
  rw [firstRow_eq_find_rowsOfFamily, h3, hr]
  by_cases h0 : nibble w 0 = 0 <;> simp [lastDigitRow_matchesWord, hh, h3, h0]

theorem rowsOfFamily_0 : rowsOfFamily 0x0 = [wholeWordRow 1 0x00E0, wholeWordRow 2 0x00EE, digitRow 3 0x0] := by decide

theorem rowsOfFamily_8 : rowsOfFamily 0x8 =
    [lastDigitRow 11 0x8 0x0, lastDigitRow 12 0x8 0x1, lastDigitRow 13 0x8 0x2, lastDigitRow 14 0x8 0x3,
      lastDigitRow 15 0x8 0x4, lastDigitRow 16 0x8 0x5, lastDigitRow 17 0x8 0x6, lastDigitRow 18 0x8 0x7,
      lastDigitRow 19 0x8 0xE] := by decide

theorem rowsOfFamily_E : rowsOfFamily 0xE = [lowByteRow 25 0xE 0x9E, lowByteRow 26 0xE 0xA1] := by decide

theorem rowsOfFamily_F : rowsOfFamily 0xF =
    [lowByteRow 27 0xF 0x07, lowByteRow 28 0xF 0x0A, lowByteRow 29 0xF 0x15, lowByteRow 30 0xF 0x18,
      lowByteRow 31 0xF 0x1E, lowByteRow 32 0xF 0x29, lowByteRow 33 0xF 0x33, lowByteRow 34 0xF 0x55,
      lowByteRow 35 0xF 0x65] := by decide

/-- Settles O4: a word matches rows of its own family only, and within a family the decoder compares the same digits
as the masks leave. -/
theorem decoderFollowsOpcodeMap : Obligations.DecoderFollowsOpcodeMap := by
  intro w
  have hn : nibble w 3 < 16 := Nat.mod_lt _ (by decide)
  unfold decodeWord
  split <;> rename_i h3
  case h_1 =>
    rw [firstRow_eq_find_rowsOfFamily, h3, rowsOfFamily_0]
    split <;> simp_all [wholeWordRow_matchesWord, digitRow_matchesWord, Except.toOption, rowNumber]
  case h_2 => exact firstRow_of_digitRow (n := 4) h3 (by decide) (by decide)
  case h_3 => exact firstRow_of_digitRow (n := 5) h3 (by decide) (by decide)
  case h_4 => exact firstRow_of_digitRow (n := 6) h3 (by decide) (by decide)
  case h_5 => exact firstRow_of_digitRow (n := 7) h3 (by decide) (by decide)
  case h_6 =>
    rw [firstRow_of_lastDigitRow (n := 8) h3 (by decide) (by decide)]
    split <;> rfl
  case h_7 => exact firstRow_of_digitRow (n := 9) h3 (by decide) (by decide)
  case h_8 => exact firstRow_of_digitRow (n := 10) h3 (by decide) (by decide)
  case h_9 =>
    rw [firstRow_eq_find_rowsOfFamily, h3, rowsOfFamily_8]
    unfold decodeFamily8
    split <;> simp_all [lastDigitRow_matchesWord, Except.toOption, rowNumber]
  case h_10 =>
    rw [firstRow_of_lastDigitRow (n := 20) h3 (by decide) (by decide)]
    split <;> rfl
  case h_11 => exact firstRow_of_digitRow (n := 21) h3 (by decide) (by decide)
  case h_12 => exact firstRow_of_digitRow (n := 22) h3 (by decide) (by decide)
  case h_13 => exact firstRow_of_digitRow (n := 23) h3 (by decide) (by decide)
  case h_14 => exact firstRow_of_digitRow (n := 24) h3 (by decide) (by decide)
  case h_15 =>
    rw [firstRow_eq_find_rowsOfFamily, h3, rowsOfFamily_E]
    split <;> simp_all [lowByteRow_matchesWord, Except.toOption, rowNumber]
  case h_16 =>
    rw [firstRow_eq_find_rowsOfFamily, h3, rowsOfFamily_F]
    unfold decodeFamilyF
    split <;> simp_all [lowByteRow_matchesWord, Except.toOption, rowNumber]
  case h_17 =>
    exfalso
    grind

/-- Settles O5: the unmatched answers of the decoder, family by family. -/
theorem unmatchedWordsAreTheListedGaps : Obligations.UnmatchedWordsAreTheListedGaps := by
  intro w
  have hn : nibble w 3 < 16 := Nat.mod_lt _ (by decide)
  have h0 : nibble w 0 < 16 := Nat.mod_lt _ (by decide)
  unfold decodeWord
  split <;> rename_i h3
  case h_6 | h_10 => split <;> simp [*]
  case h_9 =>
    unfold decodeFamily8
    split <;> simp [*]
    grind
  case h_15 => split <;> simp_all
  case h_16 =>
    unfold decodeFamilyF
    split <;> simp_all
  case h_1 => split <;> simp [h3]
  case h_2 | h_3 | h_4 | h_5 | h_7 | h_8 | h_11 | h_12 | h_13 | h_14 => simp [h3]
  case h_17 =>
    exfalso
    grind

/-! ### The numbers of the words that the statements write out (R96) -/

/-- The number of a word hXkk, written with its low byte beside its first digit. -/
theorem formatXK_number {h c : Nat} {kk : Byte} (hc : c = h * 0x1000 + kk.toNat) (x : Reg) :
    formatXK h x kk = BitVec.ofNat 16 (c + x.val * 0x100) :=
  congrArg (BitVec.ofNat 16) (by omega)

/-- The number of a word hXYl, written with its last digit beside its first. -/
theorem formatXYN_number {h c : Nat} {l : Fin 16} (hc : c = h * 0x1000 + l.val) (x y : Reg) :
    formatXYN h x y l = BitVec.ofNat 16 (c + x.val * 0x100 + y.val * 0x10) :=
  congrArg (BitVec.ofNat 16) (by omega)

theorem encode_addReg (x y : Reg) : encode (.addReg x y) = BitVec.ofNat 16 (0x8004 + x.val * 0x100 + y.val * 0x10) :=
  formatXYN_number rfl x y
theorem encode_sub (x y : Reg) : encode (.sub x y) = BitVec.ofNat 16 (0x8005 + x.val * 0x100 + y.val * 0x10) :=
  formatXYN_number rfl x y
theorem encode_shr (x y : Reg) : encode (.shr x y) = BitVec.ofNat 16 (0x8006 + x.val * 0x100 + y.val * 0x10) :=
  formatXYN_number rfl x y
theorem encode_subn (x y : Reg) : encode (.subn x y) = BitVec.ofNat 16 (0x8007 + x.val * 0x100 + y.val * 0x10) :=
  formatXYN_number rfl x y
theorem encode_shl (x y : Reg) : encode (.shl x y) = BitVec.ofNat 16 (0x800E + x.val * 0x100 + y.val * 0x10) :=
  formatXYN_number rfl x y
theorem encode_skp (x : Reg) : encode (.skp x) = BitVec.ofNat 16 (0xE09E + x.val * 0x100) := formatXK_number rfl x
theorem encode_sknp (x : Reg) : encode (.sknp x) = BitVec.ofNat 16 (0xE0A1 + x.val * 0x100) := formatXK_number rfl x
theorem encode_ldVxK (x : Reg) : encode (.ldVxK x) = BitVec.ofNat 16 (0xF00A + x.val * 0x100) := formatXK_number rfl x
theorem encode_ldStVx (x : Reg) : encode (.ldStVx x) = BitVec.ofNat 16 (0xF018 + x.val * 0x100) :=
  formatXK_number rfl x
theorem encode_addI (x : Reg) : encode (.addI x) = BitVec.ofNat 16 (0xF01E + x.val * 0x100) := formatXK_number rfl x
theorem encode_ldB (x : Reg) : encode (.ldB x) = BitVec.ofNat 16 (0xF033 + x.val * 0x100) := formatXK_number rfl x
theorem encode_stRegs (x : Reg) : encode (.stRegs x) = BitVec.ofNat 16 (0xF055 + x.val * 0x100) :=
  formatXK_number rfl x
theorem encode_ldRegs (x : Reg) : encode (.ldRegs x) = BitVec.ofNat 16 (0xF065 + x.val * 0x100) :=
  formatXK_number rfl x

end Sys2Proof

namespace Sys2Proof.Machine

/-- A number reads as the well-formed instruction whose word it is. -/
theorem wordReads_of_encode {n : Nat} {i : Instr} (hn : encode i = BitVec.ofNat 16 n) (hwf : i.wellFormed = true) :
    wordReads n i := by
  rw [wordReads, ← hn]
  exact encodeThenDecode i hwf

end Sys2Proof.Machine
end

section
/-! PROOFS. What an instruction can do, said once (R125, R262, R263): it latches the cause its operands name and changes
nothing else, or it has none and changes nothing outside its list of pieces of state; and obligation O8. -/

namespace Sys2Proof.Machine

/-! ### Frames by fields -/

/-- Two states have the same field for a piece of state, memory and framebuffer compared as lists. -/
def Part.sameField (s t : State) : Part → Prop
  | .mem => t.mem = s.mem
  | .V => t.V = s.V
  | .I => t.I = s.I
  | .pc => t.pc = s.pc
  | .stack => t.stack = s.stack
  | .sp => t.sp = s.sp
  | .DT => t.DT = s.DT
  | .ST => t.ST = s.ST
  | .key => t.key = s.key
  | .fb => t.fb = s.fb
  | .needsRedraw => t.needsRedraw = s.needsRedraw
  | .FAULT => t.FAULT = s.FAULT
  | .config => t.config = s.config
  | .draws => t.draws = s.draws

/-- The two states have the same fields but those of a list: the frame `sameBut` with equal lists for memory and
framebuffer, as the invariant needs it. -/
def fieldsSameBut (touched : List Part) (s t : State) : Prop := ∀ p : Part, p ∉ touched → p.sameField s t

/-- The frame by fields is the frame by reads, unless the parameters change, which say how memory is read. -/
theorem sameBut_of_fieldsSameBut {l : List Part} {s t : State} (hc : .config ∉ l) (h : fieldsSameBut l s t) :
    sameBut l s t := by
  have hmem : .mem ∉ l → ∀ a, t.readByte a = s.readByte a := fun hm a => by
    rw [State.readByte, State.readByte, h .mem hm, h .config hc]
  have hV : .V ∉ l → ∀ r, t.readV r = s.readV r := fun hv r => by rw [State.readV, State.readV, h .V hv]
  exact sameBut_of_fields hmem hV (h .I) (h .pc) (h .stack) (h .sp) (h .DT) (h .ST) (h .key) (h .fb)
    (h .needsRedraw) (h .FAULT) (h .config) (h .draws)

/-- Pieces of state an instruction that does not fault may change, pc included (R27). -/
def partsWritten : Instr → List Part
  | .sys _ => []
  | .jp _ | .jpV0 _ | .seImm _ _ | .sneImm _ _ | .seReg _ _ | .sneReg _ _ | .skp _ | .sknp _ => [.pc]
  | .call _ => [.pc, .sp, .stack]
  | .ret => [.pc, .sp]
  | .ldImm _ _ | .addImm _ _ | .ldReg _ _ | .orReg _ _ | .andReg _ _ | .xorReg _ _ | .addReg _ _ | .sub _ _
  | .shr _ _ | .subn _ _ | .shl _ _ | .ldVxDt _ | .ldVxK _ => [.V, .pc]
  | .rnd _ _ => [.V, .pc, .draws]
  | .ldI _ | .ldF _ => [.I, .pc]
  | .addI _ => [.I, .V, .pc]
  | .ldB _ => [.mem, .pc]
  | .stRegs _ => [.mem, .I, .pc]
  | .ldRegs _ => [.V, .I, .pc]
  | .cls => [.fb, .needsRedraw, .pc]
  | .drw _ _ _ => [.fb, .V, .needsRedraw, .pc]
  | .ldDtVx _ => [.DT, .pc]
  | .ldStVx _ => [.ST, .pc]

/-- No instruction changes the keys, the latch (unless it faults) or the parameters (R33, R36). -/
theorem not_mem_partsWritten (i : Instr) :
    .key ∉ partsWritten i ∧ .FAULT ∉ partsWritten i ∧ .config ∉ partsWritten i := by
  cases i <;> simp [partsWritten]

/-- The cause an instruction latches in a state, if it latches one, from the rows of R261 (R265 to R270). -/
def causeOf (i : Instr) (s : State) : Option Fault :=
  match i with
  | .call _ => if s.sp.val = 16 then some .stackOverflow else none
  | .ret => if s.sp.val = 0 then some .stackUnderflow else none
  | .drw x y n =>
    if 0 < n.val ∧ 0xFFF < s.I.toNat + n.val - 1 then some .memoryOutOfBounds
    else if 0 < n.val ∧ 2047 < ((s.readV y).toNat + n.val - 1) * 64 + (s.readV x).toNat + 7 then
      some .framebufferOutOfBounds
    else none
  | .ldB _ => if 0xFFF < s.I.toNat + 2 then some .memoryOutOfBounds else none
  | .stRegs x | .ldRegs x =>
    if 0xFFF < s.I.toNat + s.config.blockXferOffset.val + x.val then some .memoryOutOfBounds else none
  | .skp x | .sknp x => if 15 < (s.readV x).toNat then some .keyIndexOutOfRange else none
  | .cls | .sys _ | .jp _ | .seImm _ _ | .sneImm _ _ | .seReg _ _ | .ldImm _ _ | .addImm _ _ | .ldReg _ _
  | .orReg _ _ | .andReg _ _ | .xorReg _ _ | .addReg _ _ | .sub _ _ | .shr _ _ | .subn _ _ | .shl _ _
  | .sneReg _ _ | .ldI _ | .jpV0 _ | .rnd _ _ | .ldVxDt _ | .ldVxK _ | .ldDtVx _ | .ldStVx _ | .addI _ | .ldF _ =>
    none

/-- The instruction latched its cause and changed nothing else (R262). -/
def Latched (i : Instr) (s t : State) : Prop := ∃ r : Raise, causeOf i s = some r.cause ∧ t = s.latch r (encode i)

/-- The instruction had no cause to fault and changed at most the pieces of state it writes. -/
def Completed (i : Instr) (s t : State) : Prop := causeOf i s = none ∧ fieldsSameBut (partsWritten i) s t

/-! ### The conditions tested before the first write, as causes -/

theorem memRaise?_cause (base count : Nat) : (memRaise? base count).map Raise.cause =
    if 0 < count ∧ 0xFFF < base + count - 1 then some .memoryOutOfBounds else none := by
  unfold memRaise?
  split <;> rfl

theorem keyRaise?_cause (k : Byte) :
    (keyRaise? k).map Raise.cause = if 15 < k.toNat then some .keyIndexOutOfRange else none := by
  unfold keyRaise?
  split <;> rfl

theorem fbRaise?_cause (x0 y0 n : Nat) : (fbRaise? x0 y0 n).map Raise.cause =
    if 0 < n ∧ 2047 < (y0 + n - 1) * 64 + x0 + 7 then some .framebufferOutOfBounds else none := by
  have hc : (0 < n ∧ 2047 < pixelIndex x0 y0 (n - 1) 7) ↔ 0 < n ∧ 2047 < (y0 + n - 1) * 64 + x0 + 7 := by
    refine and_congr_right fun h0 => ?_
    rw [pixelIndex, Nat.add_sub_assoc h0]
    omega
  unfold fbRaise?
  rw [if_congr hc rfl rfl]
  split <;> rfl

theorem drawRaise?_cause (x y : Reg) (n : Fin 16) (s : State) :
    (drawRaise? (s.readV x).toNat (s.readV y).toNat s.I.toNat n.val).map Raise.cause = causeOf (.drw x y n) s := by
  rw [drawRaise?, Option.map_or, memRaise?_cause, fbRaise?_cause, causeOf]
  split <;> rfl

theorem ldB_cause (x : Reg) (s : State) :
    (memRaise? s.I.toNat 3).map Raise.cause = causeOf (.ldB x) s := by
  rw [memRaise?_cause, causeOf]
  exact if_congr (by omega) rfl rfl

/-- The condition FX55 and FX65 share (R204, R205). -/
theorem block_cause (x : Reg) (s : State) : (memRaise? s.blockBase (x.val + 1)).map Raise.cause =
    if 0xFFF < s.I.toNat + s.config.blockXferOffset.val + x.val then some .memoryOutOfBounds else none := by
  rw [memRaise?_cause, State.blockBase]
  exact if_congr (by omega) rfl rfl

/-! ### The instructions that can fault: what they answer -/

theorem guarded_of_cause_none {f : Option Raise} {c : Option Fault} (w : Word) (s e : State)
    (hf : f.map Raise.cause = c) (hc : c = none) : guarded f w s e = .next e := by
  rw [Option.map_eq_none_iff.mp (hf.trans hc), guarded_none]

/-- The cells of a DXYN, in drawing order. -/
def drawnCells (x y : Reg) (n : Fin 16) (s : State) : List Nat :=
  s.spriteCells (s.readV x).toNat (s.readV y).toNat s.I.toNat n.val

theorem exec_drw {x y : Reg} {n : Fin 16} {s : State} (h : causeOf (.drw x y n) s = none) :
    exec (.drw x y n) s = .next (((s.setFb (s.fb.draw (drawnCells x y n s)).1).setVF
      (s.fb.draw (drawnCells x y n s)).2).setNeedsRedraw true).advance :=
  guarded_of_cause_none _ _ _ (drawRaise?_cause x y n s) h

theorem exec_ldB {x : Reg} {s : State} (h : causeOf (.ldB x) s = none) :
    exec (.ldB x) s = .next (s.writeBytes s.I.toNat (bcdDigits (s.readV x))).advance :=
  guarded_of_cause_none _ _ _ (ldB_cause x s) h

theorem exec_stRegs {x : Reg} {s : State} (h : causeOf (.stRegs x) s = none) :
    exec (.stRegs x) s = .next
      ((s.writeBytes s.blockBase ((regsUpTo x).map s.readV)).setI (s.I + BitVec.ofNat 16 (x.val + 1))).advance :=
  guarded_of_cause_none _ _ _ (block_cause x s) h

theorem exec_ldRegs {x : Reg} {s : State} (h : causeOf (.ldRegs x) s = none) :
    exec (.ldRegs x) s = .next
      ((s.loadRegs s.blockBase (regsUpTo x)).setI (s.I + BitVec.ofNat 16 (x.val + 1))).advance :=
  guarded_of_cause_none _ _ _ (block_cause x s) h

theorem exec_skp {x : Reg} {s : State} (h : causeOf (.skp x) s = none) :
    exec (.skp x) s = .next (s.skipIf (s.keyDownOf (s.readV x))) :=
  guarded_of_cause_none _ _ _ (keyRaise?_cause (s.readV x)) h

theorem exec_sknp {x : Reg} {s : State} (h : causeOf (.sknp x) s = none) :
    exec (.sknp x) s = .next (s.skipIf (!s.keyDownOf (s.readV x))) :=
  guarded_of_cause_none _ _ _ (keyRaise?_cause (s.readV x)) h

/-- The call stack after a push, with its address jumped to (R142). -/
def State.called (s : State) (h : s.sp.val < 16) (nnn : Addr12) : State :=
  State.setPc { s with stack := s.stack.set s.sp.val s.pc, sp := ⟨s.sp.val + 1, by omega⟩ } (zextAddr nnn)

theorem exec_call {nnn : Addr12} {s : State} (h : s.sp.val < 16) :
    exec (.call nnn) s = .next (s.called h nnn) := by
  show execCall nnn s = _
  rw [execCall, State.push?, dif_pos h]
  rfl

theorem exec_call_full {nnn : Addr12} {s : State} (h : s.sp.val = 16) :
    exec (.call nnn) s = .next (s.latch ⟨.stackOverflow, s.pc.toNat⟩ (encode (.call nnn))) := by
  show execCall nnn s = _
  rw [execCall, s.push?_eq_none.mpr h]
  rfl

/-- The state after a pop, with pc two bytes after the popped entry (R140). -/
def State.returned (s : State) (h : 0 < s.sp.val) : State :=
  State.setPc { s with sp := ⟨s.sp.val - 1, by omega⟩ } (s.stack[s.sp.val - 1] + 2)

theorem exec_ret {s : State} (h : 0 < s.sp.val) : exec .ret s = .next (s.returned h) := by
  show execRet s = _
  rw [execRet, State.pop?, dif_pos h]
  rfl

theorem exec_ret_empty {s : State} (h : s.sp.val = 0) :
    exec .ret s = .next (s.latch ⟨.stackUnderflow, s.pc.toNat⟩ (encode .ret)) := by
  show execRet s = _
  rw [execRet, s.pop?_eq_none.mpr h]
  rfl

theorem exec_ldVxK {x : Reg} {s : State} {k : Fin 16} (h : s.lowestKey = some k) :
    exec (.ldVxK x) s = .next (s.writeV x (BitVec.ofNat 8 k.val)).advance := by
  show execLdVxK x s = _
  rw [execLdVxK, h]

theorem exec_ldVxK_waiting {x : Reg} {s : State} (h : s.lowestKey = none) : exec (.ldVxK x) s = .next s := by
  show execLdVxK x s = _
  rw [execLdVxK, h]

/-! ### The frames of the instructions, one for each list of pieces written -/

theorem frame_pc (s : State) (a : Word) :
    fieldsSameBut [.pc] s { s with pc := a } := by
  intro p hp
  cases p <;> simp [Part.sameField] at hp ⊢

theorem frame_V_pc (s : State) (v : Vector Byte 16) (a : Word) :
    fieldsSameBut [.V, .pc] s { s with V := v, pc := a } := by
  intro p hp
  cases p <;> simp [Part.sameField] at hp ⊢

theorem frame_V_pc_draws (s : State) (v : Vector Byte 16) (a : Word) (c : Nat) :
    fieldsSameBut [.V, .pc, .draws] s { s with V := v, pc := a, draws := c } := by
  intro p hp
  cases p <;> simp [Part.sameField] at hp ⊢

theorem frame_I_pc (s : State) (i : Word) (a : Word) :
    fieldsSameBut [.I, .pc] s { s with I := i, pc := a } := by
  intro p hp
  cases p <;> simp [Part.sameField] at hp ⊢

theorem frame_I_V_pc (s : State) (i : Word) (v : Vector Byte 16) (a : Word) :
    fieldsSameBut [.I, .V, .pc] s { s with I := i, V := v, pc := a } := by
  intro p hp
  cases p <;> simp [Part.sameField] at hp ⊢

theorem frame_V_I_pc (s : State) (v : Vector Byte 16) (i : Word) (a : Word) :
    fieldsSameBut [.V, .I, .pc] s { s with V := v, I := i, pc := a } := by
  intro p hp
  cases p <;> simp [Part.sameField] at hp ⊢

theorem frame_mem_pc (s : State) (m : Memory) (a : Word) :
    fieldsSameBut [.mem, .pc] s { s with mem := m, pc := a } := by
  intro p hp
  cases p <;> simp [Part.sameField] at hp ⊢

theorem frame_mem_I_pc (s : State) (m : Memory) (i : Word) (a : Word) :
    fieldsSameBut [.mem, .I, .pc] s { s with mem := m, I := i, pc := a } := by
  intro p hp
  cases p <;> simp [Part.sameField] at hp ⊢

theorem frame_fb_redraw_pc (s : State) (f : Framebuffer) (b : Bool) (a : Word) :
    fieldsSameBut [.fb, .needsRedraw, .pc] s { s with fb := f, needsRedraw := b, pc := a } := by
  intro p hp
  cases p <;> simp [Part.sameField] at hp ⊢

theorem frame_fb_V_redraw_pc (s : State) (f : Framebuffer) (v : Vector Byte 16) (b : Bool) (a : Word) :
    fieldsSameBut [.fb, .V, .needsRedraw, .pc] s { s with fb := f, V := v, needsRedraw := b, pc := a } := by
  intro p hp
  cases p <;> simp [Part.sameField] at hp ⊢

theorem frame_pc_sp (s : State) (a : Word) (n : Fin 17) :
    fieldsSameBut [.pc, .sp] s { s with pc := a, sp := n } := by
  intro p hp
  cases p <;> simp [Part.sameField] at hp ⊢

theorem frame_pc_sp_stack (s : State) (a : Word) (n : Fin 17) (k : Vector Word 16) :
    fieldsSameBut [.pc, .sp, .stack] s { s with pc := a, sp := n, stack := k } := by
  intro p hp
  cases p <;> simp [Part.sameField] at hp ⊢

theorem frame_pc_stack (s : State) (a : Word) (k : Vector Word 16) :
    fieldsSameBut [.pc, .stack] s { s with pc := a, stack := k } := by
  intro p hp
  cases p <;> simp [Part.sameField] at hp ⊢

theorem frame_DT_pc (s : State) (d : Byte) (a : Word) :
    fieldsSameBut [.DT, .pc] s { s with DT := d, pc := a } := by
  intro p hp
  cases p <;> simp [Part.sameField] at hp ⊢

theorem frame_ST_pc (s : State) (d : Byte) (a : Word) :
    fieldsSameBut [.ST, .pc] s { s with ST := d, pc := a } := by
  intro p hp
  cases p <;> simp [Part.sameField] at hp ⊢

theorem frame_refl (l : List Part) (s : State) : fieldsSameBut l s s := by
  intro p _
  cases p <;> rfl

/-- Loading registers changes the registers only. -/
theorem State.loadRegs_eq_with (s : State) (base : Nat) (ks : List Reg) :
    s.loadRegs base ks = { s with V := (s.loadRegs base ks).V } := by
  obtain ⟨v, hv⟩ := s.loadRegs_eq base ks s
  rw [State.loadRegs, hv]

/-! ### Every instruction answers, and how -/

theorem next_unique {r : Result} {t u : State} (ht : r = .next t) (hu : r = .next u) : u = t :=
  Host.Outcome.next.inj (hu.symm.trans ht)

theorem outcome_of_completed {i : Instr} {s t : State} (h : exec i s = .next t) (hc : causeOf i s = none)
    (hf : fieldsSameBut (partsWritten i) s t) : ∃ t, exec i s = .next t ∧ (Latched i s t ∨ Completed i s t) :=
  ⟨t, h, .inr ⟨hc, hf⟩⟩

/-- An instruction whose condition is tested before its first write: its cause is the condition's, and its effect is
looked at only where there is none. -/
theorem outcome_of_guarded {i : Instr} {s e : State} {f : Option Raise} (h : exec i s = guarded f (encode i) s e)
    (hc : f.map Raise.cause = causeOf i s) (hf : fieldsSameBut (partsWritten i) s e) :
    ∃ t, exec i s = .next t ∧ (Latched i s t ∨ Completed i s t) := by
  cases f with
  | some r => exact ⟨_, h, .inl ⟨r, hc.symm, rfl⟩⟩
  | none => exact ⟨e, h, .inr ⟨hc.symm, hf⟩⟩

/-- Every instruction answers a next state: the latched one or one in its frame (R125, R262, R263). -/
theorem exec_outcome (i : Instr) (s : State) : ∃ t, exec i s = .next t ∧ (Latched i s t ∨ Completed i s t) := by
  cases i with
  | sys _ => exact outcome_of_completed rfl rfl (frame_refl _ s)
  | jp _ | jpV0 _ | seImm _ _ | sneImm _ _ | seReg _ _ | sneReg _ _ =>
    exact outcome_of_completed rfl rfl (frame_pc s _)
  | ldImm _ _ | addImm _ _ | ldReg _ _ | orReg _ _ | andReg _ _ | xorReg _ _ | addReg _ _ | sub _ _ | shr _ _
  | subn _ _ | shl _ _ | ldVxDt _ => exact outcome_of_completed rfl rfl (frame_V_pc s _ _)
  | rnd _ _ => exact outcome_of_completed rfl rfl (frame_V_pc_draws s _ _ _)
  | ldI _ | ldF _ => exact outcome_of_completed rfl rfl (frame_I_pc s _ _)
  | addI _ => exact outcome_of_completed rfl rfl (frame_I_V_pc s _ _ _)
  | cls => exact outcome_of_completed rfl rfl (frame_fb_redraw_pc s _ _ _)
  | ldDtVx _ => exact outcome_of_completed rfl rfl (frame_DT_pc s _ _)
  | ldStVx _ => exact outcome_of_completed rfl rfl (frame_ST_pc s _ _)
  | ldVxK x =>
    cases hk : s.lowestKey with
    | none => exact outcome_of_completed (exec_ldVxK_waiting hk) rfl (frame_refl _ s)
    | some k => exact outcome_of_completed (exec_ldVxK hk) rfl (frame_V_pc s _ _)
  | call nnn =>
    by_cases h : s.sp.val = 16
    · exact ⟨_, exec_call_full h, .inl ⟨⟨.stackOverflow, s.pc.toNat⟩, if_pos h, rfl⟩⟩
    · exact outcome_of_completed (exec_call (by omega)) (if_neg h) (frame_pc_sp_stack s _ _ _)
  | ret =>
    by_cases h : s.sp.val = 0
    · exact ⟨_, exec_ret_empty h, .inl ⟨⟨.stackUnderflow, s.pc.toNat⟩, if_pos h, rfl⟩⟩
    · exact outcome_of_completed (exec_ret (by omega)) (if_neg h) (frame_pc_sp s _ _)
  | skp x | sknp x => exact outcome_of_guarded rfl (keyRaise?_cause (s.readV x)) (frame_pc s _)
  | ldB x => exact outcome_of_guarded rfl (ldB_cause x s) (frame_mem_pc s _ _)
  | stRegs x => exact outcome_of_guarded rfl (block_cause x s) (frame_mem_I_pc s _ _ _)
  | ldRegs x =>
    refine outcome_of_guarded rfl (block_cause x s) ?_
    rw [s.loadRegs_eq_with]
    exact frame_V_I_pc s _ _ _
  | drw x y n => exact outcome_of_guarded rfl (drawRaise?_cause x y n s) (frame_fb_V_redraw_pc s _ _ _ _)

/-- The inversion: an instruction that answers `t` latched its cause, or completed. -/
theorem exec_cases {i : Instr} {s t : State} (h : exec i s = .next t) : Latched i s t ∨ Completed i s t := by
  obtain ⟨u, hu, hcases⟩ := exec_outcome i s
  cases h.symm.trans hu
  exact hcases

theorem completed_of_cause_none {i : Instr} {s t : State} (hc : causeOf i s = none) (h : exec i s = .next t) :
    Completed i s t := by
  obtain ⟨r, hr, -⟩ | hdone := exec_cases h
  · exact absurd (hc.symm.trans hr) (by simp)
  · exact hdone

/-- What an instruction without a cause to fault leaves unchanged, as the statements say it. -/
theorem sameBut_of_exec {i : Instr} {s t : State} (h : exec i s = .next t) (hc : causeOf i s = none) :
    sameBut (partsWritten i) s t :=
  sameBut_of_fieldsSameBut (not_mem_partsWritten i).2.2 (completed_of_cause_none hc h).2

/-- An instruction with a cause latches it, with its word, and changes nothing else (R262). -/
theorem exec_faults {i : Instr} {s : State} {c : Fault} {w : Word} (hc : causeOf i s = some c) (hw : encode i = w) :
    ∃ t, exec i s = .next t ∧ faultedWith c w s t := by
  obtain ⟨t, h, ⟨r, hr, rfl⟩ | ⟨hnone, -⟩⟩ := exec_outcome i s
  · cases hc.symm.trans hr
    exact ⟨_, h, hw ▸ faultedWith_latch s r _⟩
  · exact absurd (hc.symm.trans hnone) (by simp)

/-! ### What a fetched word can do -/

/-- The cause a fetched word latches: a word that is no row has none (R128, R129). -/
def causeOfDecoded (d : Decoded) (s : State) : Option Fault :=
  match d with
  | .row i => causeOf i s
  | .placeholder | .unmatched => none

/-- The pieces of state a fetched word may change before the timers fall. -/
def partsWrittenBy : Decoded → List Part
  | .row i => partsWritten i
  | .placeholder => [.pc]
  | .unmatched => []

theorem not_mem_partsWrittenBy (d : Decoded) :
    .key ∉ partsWrittenBy d ∧ .FAULT ∉ partsWrittenBy d ∧ .config ∉ partsWrittenBy d := by
  cases d with
  | row i => exact not_mem_partsWritten i
  | placeholder | unmatched => simp [partsWrittenBy]

/-- The word a fetched word latches when it faults. Words that are no row have no fault. -/
def wordOf : Decoded → Word
  | .row i => encode i
  | .placeholder | .unmatched => 0

theorem execDecoded_outcome (d : Decoded) (s : State) : ∃ u, execDecoded d s = .next u ∧
    ((∃ r : Raise, causeOfDecoded d s = some r.cause ∧ u = s.latch r (wordOf d)) ∨
      (causeOfDecoded d s = none ∧ fieldsSameBut (partsWrittenBy d) s u)) := by
  cases d with
  | row i => exact exec_outcome i s
  | placeholder => exact ⟨_, rfl, .inr ⟨rfl, frame_pc s _⟩⟩
  | unmatched => exact ⟨s, rfl, .inr ⟨rfl, frame_refl _ s⟩⟩

/-- Settles O8: an instruction answers by its cases, and a cycle answers on a faulted core, at a pc without a word and
after any word. -/
theorem everyInstructionAndStepAnswersNext : Obligations.EveryInstructionAndStepAnswersNext := by
  refine ⟨fun i s => ?_, fun s => ?_⟩
  · obtain ⟨t, h, -⟩ := exec_outcome i s
    exact ⟨t, h⟩
  · obtain ⟨u, hu, -⟩ := execDecoded_outcome s.fetched s
    unfold step
    split
    · exact ⟨s, rfl⟩
    · split
      · exact ⟨_, rfl⟩
      · exact ⟨u.endCycle, by rw [hu]; rfl⟩

end Sys2Proof.Machine
end

section
/-! PROOFS. The cycle (R120 to R131, R262, R263): what it fetches, what it can do, and obligations O6, O7, O9 to O17 and
O60. -/

namespace Sys2Proof.Machine

/-! ### Fetch and decode -/

/-- Settles O6: both sides have the number of the high byte times 256 plus the low byte. -/
theorem fetchIsBigEndian : Obligations.FetchIsBigEndian := by
  intro s _
  apply BitVec.eq_of_toNat_eq
  rw [State.fetchWord, wordOfBytes_toNat, toNat_append_eq]
  rfl

/-- A fetched row is what the fetched word decodes to (R124). -/
theorem decodeWord_of_fetched {s : State} {i : Instr} (h : s.fetched = .row i) : decodeWord s.fetchWord = .ok i := by
  unfold State.fetched decode at h
  split at h
  · split at h <;> cases h
    assumption
  · cases h
    assumption
  · split at h <;> cases h

/-- The word of a fetched row is the fetched word. -/
theorem encode_of_fetched {s : State} {i : Instr} (h : s.fetched = .row i) : encode i = s.fetchWord :=
  (decodeThenEncode _ _ (decodeWord_of_fetched h)).2

/-- A word that decodes is fetched as its row, unless it is SYS and a placeholder (R124). -/
theorem fetched_of_decodeWord {s : State} {i : Instr} (h : decodeWord s.fetchWord = .ok i)
    (hp : ∀ nnn, i = .sys nnn → s.fetchWord ∉ s.config.placeholders) : s.fetched = .row i := by
  unfold State.fetched decode
  rw [h]
  cases i with
  | sys nnn => exact if_neg (hp nnn rfl)
  | _ => rfl

theorem fetched_of_unmatched {s : State} {e : DecodeError} (h : decodeWord s.fetchWord = .error e)
    (hp : s.fetchWord ∉ s.config.placeholders) : s.fetched = .unmatched := by
  unfold State.fetched decode
  rw [h]
  exact if_neg hp

theorem fetched_of_placeholder {s : State} (hp : s.fetchWord ∈ s.config.placeholders)
    (h : decodeWord s.fetchWord = .error .unmatched ∨ ∃ nnn, decodeWord s.fetchWord = .ok (.sys nnn)) :
    s.fetched = .placeholder := by
  unfold State.fetched decode
  obtain h | ⟨nnn, h⟩ := h <;> rw [h] <;> exact if_pos hp

/-! ### What a cycle can do -/

theorem not_faulted_iff {s : State} : ¬ s.faulted ↔ s.FAULT.cause = none := by
  simp [State.faulted]

theorem faulted_latch (s : State) (r : Raise) (w : Word) : (s.latch r w).faulted := rfl

/-- A cycle whose word latches no fault is that word's effect followed by the timer post-step (R120, R130). -/
theorem step_eq_tick {s u : State} (hf : s.fetches) (hu : execDecoded s.fetched s = .next u)
    (hn : u.FAULT.cause = none) : step s = .next u.tick := by
  rw [step_of_fetches hf, hu, endStep, endCycle_of_none hn]

/-- Settles O13: the latch is the first thing a cycle looks at. -/
theorem faultedCoreIsStuck : Obligations.FaultedCoreIsStuck := by
  intro s hs
  exact if_pos hs

/-- A cycle with pc above 0xFFE latches FetchOutOfBounds with word 0 (R122). -/
theorem step_fetchFault {s : State} (hn : s.FAULT.cause = none) (hpc : lastFetch < s.pc.toNat) :
    step s = .next (s.latch ⟨.fetchOutOfBounds, s.pc.toNat⟩ 0) := by
  simp [step, hn, State.fetchRaise?, hpc, raise_eq]

/-- Settles O12: with an empty latch the bound of pc is tested next, before any fetch. -/
theorem fetchBeyondMemoryFaults : Obligations.FetchBeyondMemoryFaults := by
  intro s hn hpc
  exact ⟨_, step_fetchFault hn hpc, faultedWith_latch s _ 0⟩

/-- A cycle of a core with no fault latched latches FetchOutOfBounds, or the cause of the word it fetched, or runs that
word, within its frame, and lowers the timers. -/
theorem cycle_cases {s t : State} (hs : ¬ s.faulted) (h : step s = .next t) :
    (lastFetch < s.pc.toNat ∧ t = s.latch ⟨.fetchOutOfBounds, s.pc.toNat⟩ 0) ∨
    (s.fetches ∧ ∃ r : Raise, causeOfDecoded s.fetched s = some r.cause ∧ t = s.latch r (wordOf s.fetched)) ∨
    (s.fetches ∧ causeOfDecoded s.fetched s = none ∧ ∃ u, execDecoded s.fetched s = .next u ∧
      fieldsSameBut (partsWrittenBy s.fetched) s u ∧ t = u.tick) := by
  obtain ⟨hf, -⟩ | ⟨-, hpc, ht⟩ | ⟨hf, u, hu, rfl⟩ := step_cases h
  · exact absurd hf hs
  · exact .inl ⟨hpc, ht⟩
  · obtain ⟨u', hu', hcases⟩ := execDecoded_outcome s.fetched s
    cases hu.symm.trans hu'
    obtain ⟨r, hr, rfl⟩ | ⟨hc, hframe⟩ := hcases
    · exact .inr (.inl ⟨hf, r, hr, endCycle_of_faulted (faulted_latch s r _)⟩)
    · have hn : u.FAULT.cause = none := by rw [hframe .FAULT (not_mem_partsWrittenBy _).2.1]; exact hf.1
      exact .inr (.inr ⟨hf, hc, u, hu, hframe, endCycle_of_none hn⟩)

/-- The cause a cycle latches, or none. -/
theorem step_cause {s t : State} (hs : ¬ s.faulted) (h : step s = .next t) :
    t.FAULT.cause = if 0xFFE < s.pc.toNat then some .fetchOutOfBounds else causeOfDecoded s.fetched s := by
  obtain ⟨hpc, rfl⟩ | ⟨hf, r, hr, rfl⟩ | ⟨hf, hc, u, -, hframe, rfl⟩ := cycle_cases hs h
  · exact (if_pos hpc).symm
  · rw [if_neg (Nat.not_lt.mpr hf.2), hr]
    rfl
  · have hu : u.FAULT = s.FAULT := hframe .FAULT (not_mem_partsWrittenBy _).2.1
    rw [if_neg (Nat.not_lt.mpr hf.2), hc, State.tick_FAULT, hu, hf.1]

/-- A cycle of an unfaulted core that ends unfaulted ran the word it fetched, within its frame, and lowered the
timers. -/
theorem cycle_completed {s t : State} (hs : ¬ s.faulted) (h : step s = .next t) (ht : ¬ t.faulted) :
    s.fetches ∧ causeOfDecoded s.fetched s = none ∧ ∃ u, execDecoded s.fetched s = .next u ∧
      fieldsSameBut (partsWrittenBy s.fetched) s u ∧ t = u.tick := by
  obtain ⟨-, rfl⟩ | ⟨-, r, -, rfl⟩ | hdone := cycle_cases hs h
  · exact absurd (faulted_latch s _ _) ht
  · exact absurd (faulted_latch s r _) ht
  · exact hdone

/-- A cycle of an unfaulted core that ends faulted changed nothing but the latch. -/
theorem cycle_faulted {s t : State} (hs : ¬ s.faulted) (h : step s = .next t) (ht : t.faulted) :
    ∃ r w, t = s.latch r w := by
  obtain ⟨-, ht'⟩ | ⟨-, r, -, ht'⟩ | ⟨hf, -, u, -, hframe, rfl⟩ := cycle_cases hs h
  · exact ⟨_, _, ht'⟩
  · exact ⟨r, _, ht'⟩
  · have hu : u.FAULT = s.FAULT := hframe .FAULT (not_mem_partsWrittenBy _).2.1
    exact absurd (show s.faulted by rw [State.faulted, ← hu]; exact ht) hs

/-! ### The obligations on single cycles -/

/-- Settles O7: the fetched row is the instruction the two bytes decode to, and the end of the cycle is the timer
post-step or nothing. -/
theorem stepRunsTheDecodedInstruction : Obligations.StepRunsTheDecodedInstruction := by
  intro s t i hf hdec hp he
  have hw : decodeWord s.fetchWord = .ok i := by
    simp only [decodeBytes] at hdec
    split at hdec <;> cases hdec
    assumption
  have hd : execDecoded s.fetched s = .next t := by
    rw [fetched_of_decodeWord hw hp]
    exact he
  refine ⟨fun hn => ⟨_, step_eq_tick hf hd hn, tick_spec t⟩, fun ht => ?_⟩
  rw [step_of_fetches hf, hd, endStep, endCycle_of_faulted ht]

theorem step_of_unmatched {s : State} (hf : s.fetches) (hd : s.fetched = .unmatched) : step s = .next s.tick :=
  step_eq_tick hf (by rw [hd]; rfl) hf.1

/-- Settles O9: an unmatched word runs as nothing, so only the timer post-step is left. -/
theorem unmatchedWordOnlyTicksTheTimers : Obligations.UnmatchedWordOnlyTicksTheTimers := by
  intro s hf hw hp
  have hstep := step_of_unmatched hf (fetched_of_unmatched hw hp)
  exact ⟨s.tick, hstep, (tick_spec s).1, (tick_spec s).2, hf, rfl⟩

/-- Settles O10: a placeholder word runs as the advance of pc. -/
theorem placeholderWordOnlyAdvancesPc : Obligations.PlaceholderWordOnlyAdvancesPc := by
  intro s hf hp hw
  have hd : execDecoded s.fetched s = .next s.advance := by
    rw [fetched_of_placeholder hp hw]
    rfl
  refine ⟨_, step_eq_tick hf hd hf.1, rfl, (tick_spec s).1, ?_⟩
  apply sameBut_of_fields <;> simp

/-- Settles O11: the words 0NNN are format A with digit 0, and SYS answers the state it was given. -/
theorem sysDoesNothing : Obligations.SysDoesNothing := by
  intro nnn s
  refine ⟨fun h0 hE => wordReads_of_encode ?_ ?_, rfl⟩
  · exact congrArg (BitVec.ofNat 16) (by omega)
  · simpa [Instr.wellFormed] using And.intro h0 hE

/-- Settles O14: both ways to fault latch the pc and change nothing else; the word is 0 before the fetch and the
fetched one after it. -/
theorem faultsArePrecise : Obligations.FaultsArePrecise := by
  intro s t hs h ht
  obtain ⟨hpc, rfl⟩ | ⟨hf, r, hr, rfl⟩ | ⟨hf, -, u, -, hframe, rfl⟩ := cycle_cases hs h
  · exact ⟨(faultedWith_latch s _ _).2, rfl, fun _ => rfl, fun hle => absurd hpc (Nat.not_lt.mpr hle)⟩
  · refine ⟨(faultedWith_latch s r _).2, rfl, fun hgt => absurd hgt (Nat.not_lt.mpr hf.2), fun _ => ?_⟩
    cases hd : s.fetched with
    | row i =>
      rw [State.latch_FAULT]
      exact encode_of_fetched hd
    | placeholder | unmatched => rw [hd] at hr; cases hr
  · have hu : u.FAULT = s.FAULT := hframe .FAULT (not_mem_partsWrittenBy _).2.1
    exact absurd (show s.faulted by rw [State.faulted, ← hu]; exact ht) hs

/-! ### The table of causes (R261) -/

theorem causeOfDecoded_ne_fetchOutOfBounds {d : Decoded} {s : State} : causeOfDecoded d s ≠ some .fetchOutOfBounds := by
  rcases d with i | _ | _
  case placeholder | unmatched => simp [causeOfDecoded]
  cases i <;> simp [causeOfDecoded, causeOf]
  case drw x y n => split_ifs <;> simp

theorem causeOfDecoded_eq_stackOverflow {d : Decoded} {s : State} : causeOfDecoded d s = some .stackOverflow ↔
    s.sp.val = 16 ∧ ∃ nnn, d = .row (.call nnn) := by
  rcases d with i | _ | _
  case placeholder | unmatched => simp [causeOfDecoded]
  cases i <;> simp [causeOfDecoded, causeOf]
  case drw x y n => split_ifs <;> simp

theorem causeOfDecoded_eq_stackUnderflow {d : Decoded} {s : State} : causeOfDecoded d s = some .stackUnderflow ↔
    s.sp.val = 0 ∧ d = .row .ret := by
  rcases d with i | _ | _
  case placeholder | unmatched => simp [causeOfDecoded]
  cases i <;> simp [causeOfDecoded, causeOf]
  case drw x y n => split_ifs <;> simp

theorem causeOfDecoded_eq_memoryOutOfBounds {d : Decoded} {s : State} : causeOfDecoded d s = some .memoryOutOfBounds ↔
    (∃ x y n, d = .row (.drw x y n) ∧ 0 < n.val ∧ 0xFFF < s.I.toNat + n.val - 1) ∨
    (∃ x, d = .row (.ldB x) ∧ 0xFFF < s.I.toNat + 2) ∨
    (∃ x, (d = .row (.stRegs x) ∨ d = .row (.ldRegs x)) ∧
      0xFFF < s.I.toNat + s.config.blockXferOffset.val + x.val) := by
  rcases d with i | _ | _
  case placeholder | unmatched => simp [causeOfDecoded]
  cases i <;> simp [causeOfDecoded, causeOf]
  case drw x y n => omega
  case ldB x => omega

theorem causeOfDecoded_eq_framebufferOutOfBounds {d : Decoded} {s : State} : causeOfDecoded d s = some .framebufferOutOfBounds ↔
    ∃ x y n, d = .row (.drw x y n) ∧ 0 < n.val ∧ s.I.toNat + n.val - 1 ≤ 0xFFF ∧
      2047 < ((s.readV y).toNat + n.val - 1) * 64 + (s.readV x).toNat + 7 := by
  rcases d with i | _ | _
  case placeholder | unmatched => simp [causeOfDecoded]
  cases i <;> simp [causeOfDecoded, causeOf]
  case drw x y n =>
    split_ifs with hm <;> simp_all
    omega

theorem causeOfDecoded_eq_keyIndexOutOfRange {d : Decoded} {s : State} : causeOfDecoded d s = some .keyIndexOutOfRange ↔
    ∃ x, (d = .row (.skp x) ∨ d = .row (.sknp x)) ∧ 15 < (s.readV x).toNat := by
  rcases d with i | _ | _
  case placeholder | unmatched => simp [causeOfDecoded]
  cases i <;> simp [causeOfDecoded, causeOf]
  case drw x y n => split_ifs <;> simp

/-- After the fetch test, a cycle latches a cause exactly when its word has it. -/
theorem step_cause_eq_some {s t : State} {c : Fault} (hs : ¬ s.faulted) (h : step s = .next t)
    (hc : c ≠ .fetchOutOfBounds) :
    t.FAULT.cause = some c ↔ s.fetches ∧ causeOfDecoded s.fetched s = some c := by
  rw [step_cause hs h, State.fetches]
  by_cases hpc : 0xFFE < s.pc.toNat
  · simp [hpc, hc.symm]
  · simp [hpc, not_faulted_iff.mp hs, Nat.not_lt.mp hpc]

/-- Settles O15: the test of pc comes first, then the one condition the fetched word has. -/
theorem eachFaultHasExactlyItsCause : Obligations.EachFaultHasExactlyItsCause := by
  intro s t hs h
  have hcause {c : Fault} (hc : c ≠ .fetchOutOfBounds) := step_cause_eq_some hs h hc
  refine ⟨?_, (hcause (by decide)).trans (and_congr_right fun _ => causeOfDecoded_eq_stackOverflow),
    (hcause (by decide)).trans (and_congr_right fun _ => causeOfDecoded_eq_stackUnderflow),
    (hcause (by decide)).trans (and_congr_right fun _ => causeOfDecoded_eq_memoryOutOfBounds),
    (hcause (by decide)).trans (and_congr_right fun _ => causeOfDecoded_eq_framebufferOutOfBounds),
    (hcause (by decide)).trans (and_congr_right fun _ => causeOfDecoded_eq_keyIndexOutOfRange)⟩
  rw [step_cause hs h]
  by_cases hpc : 0xFFE < s.pc.toNat
  · simp [hpc]
  · simp [hpc, causeOfDecoded_ne_fetchOutOfBounds]

/-! ### The timers (R130, R131) -/

theorem execDecoded_row {s u : State} {d : Decoded} {i : Instr} (hd : d = .row i) (h : execDecoded d s = .next u) :
    exec i s = .next u := by
  rw [hd] at h
  exact h

/-- Only FX15 writes DT. -/
theorem DT_mem_partsWrittenBy {d : Decoded} (h : .DT ∈ partsWrittenBy d) : ∃ x, d = .row (.ldDtVx x) := by
  rcases d with i | _ | _
  case placeholder | unmatched => simp [partsWrittenBy] at h
  cases i <;> simp [partsWrittenBy, partsWritten] at h ⊢

theorem ST_mem_partsWrittenBy {d : Decoded} (h : .ST ∈ partsWrittenBy d) : ∃ x, d = .row (.ldStVx x) := by
  rcases d with i | _ | _
  case placeholder | unmatched => simp [partsWrittenBy] at h
  cases i <;> simp [partsWrittenBy, partsWritten] at h ⊢

/-- Settles O16: the post-step lowers what the instruction left, which is the old timer but for FX15 and FX18. -/
theorem timersFallOncePerCycle : Obligations.TimersFallOncePerCycle := by
  intro s t hf h ht
  obtain ⟨-, -, u, hu, hframe, rfl⟩ := cycle_completed (not_faulted_iff.mpr hf.1) h ht
  refine ⟨fun x hd => ?_, fun hd => ?_, fun x hd => ?_, fun hd => ?_⟩
  · cases execDecoded_row hd hu
    exact countDown_toNat _
  · have hDT : u.DT = s.DT := hframe .DT fun hm => by
      obtain ⟨x, hx⟩ := DT_mem_partsWrittenBy hm
      exact hd x hx
    rw [State.tick_DT, countDown_toNat, hDT]
  · cases execDecoded_row hd hu
    exact countDown_toNat _
  · have hST : u.ST = s.ST := hframe .ST fun hm => by
      obtain ⟨x, hx⟩ := ST_mem_partsWrittenBy hm
      exact hd x hx
    rw [State.tick_ST, countDown_toNat, hST]

/-! ### The table of pc (R27) -/

theorem keyDownOf_eq {s : State} {b : Byte} {k : Fin 16} (h : k.val = b.toNat) : s.keyDownOf b = s.keyDown k := by
  have hk : Fin.ofNat 16 b.toNat = k := Fin.ext (by rw [Fin.val_ofNat, ← h, Nat.mod_eq_of_lt k.isLt])
  rw [State.keyDownOf, hk]

/-- A jump's sum of two small numbers does not wrap (R147). -/
theorem zextAddr_add_zextByte_toNat (nnn : Addr12) (b : Byte) :
    (zextAddr nnn + zextByte b).toNat = nnn.toNat + b.toNat := by
  have hn := nnn.isLt
  have hb := b.isLt
  rw [BitVec.toNat_add, zextAddr_toNat, zextByte_toNat, Nat.mod_eq_of_lt (by omega)]

theorem topEntry_eq {s : State} (h : 0 < s.sp.val) : s.topEntry = s.stack[s.sp.val - 1] := by
  rw [State.topEntry, Vector.getElem?_eq_getElem (by omega), Option.getD_some]

/-- With no stack underflow there is an entry to pop, and conversely (R140). -/
theorem causeOf_ret_eq_none {s : State} : causeOf .ret s = none ↔ 0 < s.sp.val := by
  simp [causeOf, Nat.pos_iff_ne_zero]

theorem causeOf_call_eq_none {nnn : Addr12} {s : State} : causeOf (.call nnn) s = none ↔ s.sp.val < 16 := by
  simp [causeOf]
  omega

/-- Some key is down exactly when there is a lowest one (R242). -/
theorem lowestKey_eq_none_iff {s : State} : s.lowestKey = none ↔ ∀ k, s.keyDown k = false := by
  refine ⟨s.lowestKey_eq_none, fun h => ?_⟩
  rw [State.lowestKey, List.find?_eq_none]
  simp [h]

/-- Settles O17: a fault keeps pc, and a word that completes leaves the pc its equation writes. -/
theorem eachInstructionLeavesPcAsListed : Obligations.EachInstructionLeavesPcAsListed := by
  intro s t hs h
  refine ⟨fun ht => ?_, fun ht => ?_⟩
  · obtain ⟨r, w, rfl⟩ := cycle_faulted hs h ht
    rfl
  obtain ⟨-, hc, u, hu, -, rfl⟩ := cycle_completed hs h ht
  generalize s.fetched = d at hc hu ⊢
  rcases d with i | _ | _
  case placeholder | unmatched =>
    cases hu
    rfl
  cases i with
  | sys _ | ldImm _ _ | addImm _ _ | ldReg _ _ | orReg _ _ | andReg _ _ | xorReg _ _ | addReg _ _ | sub _ _
  | shr _ _ | subn _ _ | shl _ _ | ldI _ | rnd _ _ | ldVxDt _ | ldDtVx _ | ldStVx _ | addI _ | ldF _ | cls =>
    cases hu
    rfl
  | jp nnn =>
    cases hu
    exact zextAddr_toNat nnn
  | jpV0 nnn =>
    cases hu
    exact zextAddr_add_zextByte_toNat nnn _
  | call nnn =>
    have hsp := (causeOf_call_eq_none (nnn := nnn)).mp hc
    obtain rfl := next_unique (exec_call hsp) hu
    exact zextAddr_toNat nnn
  | ret =>
    have hsp := causeOf_ret_eq_none.mp hc
    obtain rfl := next_unique (exec_ret hsp) hu
    exact congrArg (· + 2) (topEntry_eq hsp).symm
  | seImm x kk | seReg x y =>
    cases hu
    simp
  | sneImm x kk | sneReg x y =>
    cases hu
    simp
  | skp x =>
    obtain rfl := next_unique (exec_skp hc) hu
    intro k hk
    simp [keyDownOf_eq hk]
  | sknp x =>
    obtain rfl := next_unique (exec_sknp hc) hu
    intro k hk
    simp [keyDownOf_eq hk]
  | ldVxK x =>
    cases hk : s.lowestKey with
    | none =>
      obtain rfl := next_unique (exec_ldVxK_waiting hk) hu
      simp [lowestKey_eq_none_iff.mp hk]
    | some k =>
      obtain rfl := next_unique (exec_ldVxK hk) hu
      have hdown := (s.lowestKey_eq_some hk).1
      exact ⟨fun _ => rfl, fun hall => absurd hdown (by simp [hall])⟩
  | drw x y n =>
    obtain rfl := next_unique (exec_drw hc) hu
    rfl
  | ldB x =>
    obtain rfl := next_unique (exec_ldB hc) hu
    rfl
  | stRegs x =>
    obtain rfl := next_unique (exec_stRegs hc) hu
    rfl
  | ldRegs x =>
    obtain rfl := next_unique (exec_ldRegs hc) hu
    rw [s.loadRegs_eq_with]
    rfl

/-! ### The states that repeat (R126) -/

/-- Once both timers are 0 the post-step changes nothing. -/
theorem tick_eq_self {s : State} (hD : s.DT = 0) (hS : s.ST = 0) : s.tick = s := by
  cases s
  cases hD
  cases hS
  rfl

/-- A row that answers the state it was given leaves the timers to fall and nothing else. -/
theorem step_of_idle_row {s : State} {i : Instr} (hf : s.fetches) (hd : s.fetched = .row i)
    (he : exec i s = .next s) : step s = .next s.tick :=
  step_eq_tick_of_exec hf hd he hf.1

/-- A core on a self-jump jumps to where it is. -/
theorem step_of_parked {s : State} (h : s.parked) : step s = .next s := by
  obtain ⟨hf, hw, hD, hS⟩ := h
  have hpc : s.pc.toNat < 0x1000 := Nat.lt_of_le_of_lt hf.2 (by decide)
  have hword : s.fetchWord = encode (.jp (BitVec.ofNat 12 s.pc.toNat)) := by
    apply BitVec.eq_of_toNat_eq
    rw [hw, encode, formatA_toNat (by decide), BitVec.toNat_ofNat]
    omega
  have hd : s.fetched = .row (.jp (BitVec.ofNat 12 s.pc.toNat)) :=
    fetched_of_decodeWord (by rw [hword]; exact encodeThenDecode _ rfl) (by simp)
  have he : exec (.jp (BitVec.ofNat 12 s.pc.toNat)) s = .next s := by
    have ht : zextAddr (BitVec.ofNat 12 s.pc.toNat) = s.pc := by
      apply BitVec.eq_of_toNat_eq
      rw [zextAddr_toNat, BitVec.toNat_ofNat]
      omega
    show Host.Outcome.next (s.setPc (zextAddr _)) = _
    rw [ht]
    rfl
  rw [step_of_idle_row hf hd he, tick_eq_self hD hS]

theorem step_of_onDeadWord {s : State} (h : s.onDeadWord) : step s = .next s.tick := by
  obtain ⟨hf, hd | ⟨nnn, hd⟩⟩ := h
  · exact step_of_unmatched hf hd
  · exact step_of_idle_row hf hd rfl

theorem step_of_waitingForKey {s : State} (h : s.waitingForKey) : step s = .next s.tick := by
  obtain ⟨hf, ⟨x, hd⟩, hkeys⟩ := h
  exact step_of_idle_row hf hd (exec_ldVxK_waiting (lowestKey_eq_none_iff.mpr hkeys))

/-- Settles O60: the words of these states change nothing, so a cycle is the timer post-step, which stops at 0. -/
theorem restingStatesRepeat : Obligations.RestingStatesRepeat := by
  refine ⟨fun s => step_of_parked, fun s h => ?_⟩
  have hstep : step s = .next s.tick := h.elim step_of_onDeadWord step_of_waitingForKey
  exact ⟨s.tick, hstep, (tick_spec s).1, (tick_spec s).2, tick_eq_self⟩

end Sys2Proof.Machine
end

section
/-! PROOFS. What no instruction and no cycle may touch (R22, R29 to R35, R69): obligations O18 to O23. -/

namespace Sys2Proof.Machine

/-! ### The frame of a cycle -/

theorem Part.sameField_trans {s u t : State} {p : Part} (h : p.sameField s u) (h' : p.sameField u t) :
    p.sameField s t := by
  cases p <;> exact Eq.trans h' h

theorem frame_latch (s : State) (r : Raise) (w : Word) : fieldsSameBut [.FAULT] s (s.latch r w) := by
  intro p hp
  cases p <;> simp [Part.sameField] at hp ⊢

theorem frame_tick (s : State) : fieldsSameBut [.DT, .ST] s s.tick := by
  intro p hp
  cases p <;> simp [Part.sameField] at hp ⊢

/-- WHAT A CYCLE LEAVES BEHIND: the same state, on a faulted core; the latched state; or what the fetched word did,
with the timers lowered. -/
theorem step_outcome {s t : State} (h : step s = .next t) :
    t = s ∨ (∃ r w, t = s.latch r w) ∨
    (¬ t.faulted ∧ causeOfDecoded s.fetched s = none ∧ ∃ u, execDecoded s.fetched s = .next u ∧
      fieldsSameBut (partsWrittenBy s.fetched) s u ∧ t = u.tick) := by
  by_cases hs : s.faulted
  · exact .inl (next_unique (faultedCoreIsStuck s hs) h)
  · by_cases ht : t.faulted
    · exact .inr (.inl (cycle_faulted hs h ht))
    · exact .inr (.inr ⟨ht, (cycle_completed hs h ht).2⟩)

/-- A cycle keeps every piece of state but the latch, the timers and, if it completes, what its word writes. -/
theorem step_keeps {s t : State} (p : Part) (h : step s = .next t) (hp : p ∉ [.FAULT, .DT, .ST])
    (hw : ¬ t.faulted → p ∉ partsWrittenBy s.fetched) : p.sameField s t := by
  simp only [List.mem_cons, List.not_mem_nil, or_false, not_or] at hp
  obtain ⟨hF, hDT, hST⟩ := hp
  obtain rfl | ⟨r, w, rfl⟩ | ⟨ht, -, u, -, hframe, rfl⟩ := step_outcome h
  · exact frame_refl [] _ p (by simp)
  · exact frame_latch s r w p (by simpa using hF)
  · exact Part.sameField_trans (hframe p (hw ht)) (frame_tick u p (by simp [hDT, hST]))

theorem step_keeps_config {s t : State} (h : step s = .next t) : t.config = s.config :=
  step_keeps .config h (by decide) fun _ => (not_mem_partsWrittenBy _).2.2

/-- Settles O21: neither the keys nor the parameters are among the pieces any word writes. -/
theorem coreNeverChangesKeysOrParameters : Obligations.CoreNeverChangesKeysOrParameters := by
  intro s t h
  have hkey : t.key = s.key := step_keeps .key h (by decide) fun _ => (not_mem_partsWrittenBy _).1
  exact ⟨fun k => by rw [State.keyDown, State.keyDown, hkey], step_keeps_config h⟩

/-! ### Which words write the stack, the screen and memory -/

theorem stack_mem_partsWrittenBy {d : Decoded} (h : .sp ∈ partsWrittenBy d ∨ .stack ∈ partsWrittenBy d) :
    (∃ nnn, d = .row (.call nnn)) ∨ d = .row .ret := by
  rcases d with i | _ | _
  case placeholder | unmatched => simp [partsWrittenBy] at h
  cases i <;> simp [partsWrittenBy, partsWritten] at h ⊢

theorem screen_mem_partsWrittenBy {d : Decoded} (h : .fb ∈ partsWrittenBy d ∨ .needsRedraw ∈ partsWrittenBy d) :
    d = .row .cls ∨ ∃ x y n, d = .row (.drw x y n) := by
  rcases d with i | _ | _
  case placeholder | unmatched => simp [partsWrittenBy] at h
  cases i <;> simp [partsWrittenBy, partsWritten] at h ⊢

theorem memory_mem_partsWrittenBy {d : Decoded} (h : .mem ∈ partsWrittenBy d) :
    (∃ x, d = .row (.ldB x)) ∨ ∃ x, d = .row (.stRegs x) := by
  rcases d with i | _ | _
  case placeholder | unmatched => simp [partsWrittenBy] at h
  cases i <;> simp [partsWrittenBy, partsWritten] at h ⊢

/-- Settles O18: sp and the entries are written by 2NNN and 00EE only, and a faulting cycle writes nothing. -/
theorem onlyCallAndReturnTouchTheStack : Obligations.OnlyCallAndReturnTouchTheStack := by
  intro s t h hwhy
  have hw : ¬ t.faulted → ¬ (.sp ∈ partsWrittenBy s.fetched ∨ .stack ∈ partsWrittenBy s.fetched) := by
    intro ht hm
    obtain ⟨hcall, hret⟩ := hwhy.resolve_left ht
    obtain ⟨nnn, hd⟩ | hd := stack_mem_partsWrittenBy hm
    · exact hcall nnn hd
    · exact hret hd
  have hsp : t.sp = s.sp := step_keeps .sp h (by decide) fun ht hm => hw ht (.inl hm)
  have hstack : t.stack = s.stack := step_keeps .stack h (by decide) fun ht hm => hw ht (.inr hm)
  exact ⟨hsp, fun k => by rw [hstack]⟩

/-- Settles O20: the flag survives every cycle (O57's lemma), and the screen's pieces are written by 00E0 and DXYN
only. -/
theorem onlyDisplayInstructionsTouchTheScreen : Obligations.OnlyDisplayInstructionsTouchTheScreen := by
  intro s t h
  refine ⟨keepsRedrawSet_step s t h, fun hcls hdrw => ?_⟩
  have hw : ¬ (.fb ∈ partsWrittenBy s.fetched ∨ .needsRedraw ∈ partsWrittenBy s.fetched) := by
    intro hm
    obtain hd | ⟨x, y, n, hd⟩ := screen_mem_partsWrittenBy hm
    · exact hcls hd
    · exact hdrw x y n hd
  have hfb : t.fb = s.fb := step_keeps .fb h (by decide) fun _ hm => hw (.inl hm)
  have hflag : t.needsRedraw = s.needsRedraw := step_keeps .needsRedraw h (by decide) fun _ hm => hw (.inr hm)
  exact ⟨hflag, fun idx => by rw [hfb]⟩

/-- A cycle whose word, where it completes, keeps the byte at `a` keeps it. -/
theorem readByte_of_step {s t : State} {a : Nat} (h : step s = .next t)
    (hw : ∀ u, causeOfDecoded s.fetched s = none → execDecoded s.fetched s = .next u → u.readByte a = s.readByte a) :
    t.readByte a = s.readByte a := by
  obtain rfl | ⟨r, w, rfl⟩ | ⟨-, hc, u, hu, -, rfl⟩ := step_outcome h
  · rfl
  · rfl
  · exact hw u hc hu

/-- Settles O19: FX33 and FX55 are one run of stores each, and no other word writes memory. -/
theorem onlyTheTwoStoresWriteMemory : Obligations.OnlyTheTwoStoresWriteMemory := by
  intro s t h
  split
  · next x hd =>
    refine fun a ha => readByte_of_step h fun u hc hu => ?_
    rw [hd] at hc hu
    obtain rfl := next_unique (exec_ldB hc) hu
    exact s.readByte_writeBytes_outside ha
  · next x hd =>
    refine fun a ha => readByte_of_step h fun u hc hu => ?_
    rw [hd] at hc hu
    obtain rfl := next_unique (exec_stRegs hc) hu
    exact s.readByte_writeBytes_outside (by simpa [regsUpTo_length, State.blockBase] using ha)
  · next hB hst =>
    have hmem : t.mem = s.mem := step_keeps .mem h (by decide) fun _ hm => by
      obtain ⟨x, hd⟩ | ⟨x, hd⟩ := memory_mem_partsWrittenBy hm
      · exact hB x hd
      · exact hst x hd
    intro a
    rw [State.readByte, State.readByte, hmem, step_keeps_config h]

/-! ### Registers (R22, R23) -/

/-- Writing the flag and another register keeps the rest, in either order. -/
theorem regsSameBut_writeV_setVF (s : State) (x : Reg) (b : Byte) (c : Bool) :
    regsSameBut [x, VF] s ((s.writeV x b).setVF c).advance := by
  intro r hr
  simp only [List.mem_cons, List.not_mem_nil, or_false, not_or] at hr
  rw [State.readV_advance, State.readV_setVF, if_neg hr.2, State.readV_writeV_ne s hr.1]

theorem regsSameBut_setVF_writeV (s : State) (x : Reg) (b : Byte) (c : Bool) :
    regsSameBut [x, VF] s ((s.setVF c).writeV x b).advance := by
  intro r hr
  simp only [List.mem_cons, List.not_mem_nil, or_false, not_or] at hr
  rw [State.readV_advance, State.readV_writeV_ne _ hr.1, State.readV_setVF, if_neg hr.2]

theorem regsSameBut_of_V_eq {s t : State} (l : List Reg) (h : t.V = s.V) : regsSameBut l s t := by
  intro r _
  rw [State.readV, State.readV, h]

/-- An instruction that completes writes no register outside its list of destinations. -/
theorem regsSameBut_of_completed {i : Instr} {s t : State} (hdone : Completed i s t) (h : exec i s = .next t) :
    regsSameBut (registersWritten i) s t := by
  obtain ⟨hc, hframe⟩ := hdone
  cases i with
  | cls | ret | sys _ | jp _ | call _ | seImm _ _ | sneImm _ _ | seReg _ _ | sneReg _ _ | ldI _ | jpV0 _ | skp _
  | sknp _ | ldDtVx _ | ldStVx _ | ldF _ | ldB _ | stRegs _ =>
    exact regsSameBut_of_V_eq _ (hframe .V (by simp [partsWritten]))
  | ldImm x _ | addImm x _ | ldReg x _ | orReg x _ | andReg x _ | xorReg x _ | ldVxDt x =>
    cases h
    exact (writeV_advance_frame x _ s).2.1
  | rnd x _ =>
    cases h
    exact (writeV_advance_frame x _ s.countDraw).2.1
  | ldVxK x =>
    cases hk : s.lowestKey with
    | none =>
      obtain rfl := next_unique (exec_ldVxK_waiting hk) h
      exact regsSameBut_of_V_eq _ rfl
    | some k =>
      obtain rfl := next_unique (exec_ldVxK hk) h
      exact (writeV_advance_frame x _ s).2.1
  | addReg x _ | sub x _ | subn x _ =>
    cases h
    exact regsSameBut_writeV_setVF s x _ _
  | shr x _ | shl x _ =>
    cases h
    exact regsSameBut_setVF_writeV s x _ _
  | addI x =>
    cases h
    exact (writeV_advance_frame VF _ s).2.1
  | drw x y n =>
    obtain rfl := next_unique (exec_drw hc) h
    exact (writeV_advance_frame VF _ s).2.1
  | ldRegs x =>
    obtain rfl := next_unique (exec_ldRegs hc) h
    intro r hr
    exact (s.readV_loadRegs _ _ r).trans (if_neg hr)

/-- Settles O22: a faulting instruction writes no register, a completing one its destinations. -/
theorem onlyDestinationRegistersChange : Obligations.OnlyDestinationRegistersChange := by
  intro i s t h
  obtain ⟨r, -, rfl⟩ | hdone := exec_cases h
  · exact regsSameBut_of_V_eq _ rfl
  · exact regsSameBut_of_completed hdone h

/-! ### The sound timer is not read (R32) -/

/-- A run that differs in ST only ends in the state that differs in ST only. -/
def ignoresST (i : Instr) : Prop :=
  ∀ (s t : State) (v : Byte), exec i s = .next t → exec i (s.setST v) = .next (t.setST v)

theorem loadRegs_setST (s : State) (v : Byte) (base : Nat) (ks : List Reg) :
    (s.setST v).loadRegs base ks = (s.loadRegs base ks).setST v := by
  suffices h : ∀ t : State, ks.foldl (fun t k => t.writeV k (s.readByte (base + k.val))) (t.setST v) =
      (ks.foldl (fun t k => t.writeV k (s.readByte (base + k.val))) t).setST v from h s
  induction ks with
  | nil => exact fun _ => rfl
  | cons k ks ih => exact fun t => ih (t.writeV k _)

theorem guarded_setST {f : Option Raise} {w : Word} {s e t : State} (v : Byte) (h : guarded f w s e = .next t) :
    guarded f w (s.setST v) (e.setST v) = .next (t.setST v) := by
  cases f <;> cases h <;> rfl

theorem ignoresST_of_ne_ldStVx {i : Instr} (hi : ∀ x, i ≠ .ldStVx x) : ignoresST i := by
  intro s t v h
  cases i with
  | ldStVx x => exact absurd rfl (hi x)
  | call nnn =>
    by_cases hsp : s.sp.val = 16
    · rw [next_unique (exec_call_full hsp) h]
      exact exec_call_full (s := s.setST v) hsp
    · have hroom : s.sp.val < 16 := by omega
      rw [next_unique (exec_call hroom) h]
      exact exec_call (s := s.setST v) hroom
  | ret =>
    by_cases hsp : s.sp.val = 0
    · rw [next_unique (exec_ret_empty hsp) h]
      exact exec_ret_empty (s := s.setST v) hsp
    · have hentry : 0 < s.sp.val := Nat.pos_of_ne_zero hsp
      rw [next_unique (exec_ret hentry) h]
      exact exec_ret (s := s.setST v) hentry
  | ldVxK x =>
    cases hk : s.lowestKey with
    | none =>
      rw [next_unique (exec_ldVxK_waiting hk) h]
      exact exec_ldVxK_waiting (s := s.setST v) hk
    | some k =>
      rw [next_unique (exec_ldVxK hk) h]
      exact exec_ldVxK (s := s.setST v) hk
  | skp x | sknp x | ldB x | stRegs x | drw x y n => exact guarded_setST v h
  | ldRegs x =>
    show guarded _ _ (s.setST v) (((s.setST v).loadRegs s.blockBase (regsUpTo x)).setI _).advance = _
    rw [loadRegs_setST]
    exact guarded_setST v h
  | cls | sys _ | jp _ | seImm _ _ | sneImm _ _ | seReg _ _ | ldImm _ _ | addImm _ _ | ldReg _ _
  | orReg _ _ | andReg _ _ | xorReg _ _ | addReg _ _ | sub _ _ | shr _ _ | subn _ _ | shl _ _
  | sneReg _ _ | ldI _ | jpV0 _ | rnd _ _ | ldVxDt _ | ldDtVx _ | addI _ | ldF _ =>
    cases h
    rfl

theorem sameBut_setST (s : State) (v : Byte) : sameBut [.ST] s (s.setST v) := by
  apply sameBut_of_fields <;> simp

/-- Settles O23: FX18 overwrites ST with Vx whatever it held, and every other instruction carries it along. -/
theorem soundTimerIsNeverRead : Obligations.SoundTimerIsNeverRead := by
  intro i s t v h
  by_cases hi : ∃ x, i = .ldStVx x
  · obtain ⟨x, rfl⟩ := hi
    cases h
    exact ⟨_, rfl, sameBut_refl _ _⟩
  · exact ⟨_, ignoresST_of_ne_ldStVx (fun x hx => hi ⟨x, hx⟩) s t v h, sameBut_setST t v⟩

end Sys2Proof.Machine
end

section
/-! PROOFS. The invariant (logs 7, 8, R28, R140, R262, R263): it holds after every reset, every cycle and every host move
keep it, and obligations O24, O25, O26. -/

namespace Sys2Proof.Machine

/-! ### Reset -/

theorem inv_resetWith (c : Config) (d : Nat) : (State.resetWith c d).Inv where
  memory := ⟨List.Pairwise.nil, by simp [State.resetWith]⟩
  framebuffer := ⟨List.Pairwise.nil, by simp [State.resetWith]⟩
  pcRange := show (0x200 : Word).toNat ≤ 0x10FE by decide
  entries := fun k hk => absurd hk (Nat.not_lt_zero _)
  latch := .inl ⟨rfl, rfl⟩

/-- Settles O24: empty memory and framebuffer lists, pc 0x200, no entry in use, an empty latch. -/
theorem resetSatisfiesTheInvariant : Obligations.ResetSatisfiesTheInvariant :=
  ⟨inv_resetWith _ _, inv_resetWith⟩

/-! ### A fetched word that completes keeps each clause -/

section Completed

variable {s u t : State}

/-- The two stores wrote below 0x1000, where their tests let them, and the stores keep the canonical form. -/
theorem memory_wf_of_completed (hm : s.mem.wf s.config.resetByte) (hc : causeOfDecoded s.fetched s = none)
    (hu : execDecoded s.fetched s = .next u) (hframe : fieldsSameBut (partsWrittenBy s.fetched) s u) :
    u.mem.wf u.config.resetByte := by
  by_cases hw : .mem ∈ partsWrittenBy s.fetched
  · obtain ⟨x, hd⟩ | ⟨x, hd⟩ := memory_mem_partsWrittenBy hw <;> rw [hd] at hc hu
    · obtain rfl := next_unique (exec_ldB hc) hu
      have hI := memRaise?_eq_none.mp (Option.map_eq_none_iff.mp ((ldB_cause x s).trans hc))
      exact Memory.wf_writeAll hm (by rw [bcdDigits_length]; omega)
    · obtain rfl := next_unique (exec_stRegs hc) hu
      have hI := memRaise?_eq_none.mp (Option.map_eq_none_iff.mp ((block_cause x s).trans hc))
      exact Memory.wf_writeAll hm (by rw [List.length_map, regsUpTo_length]; omega)
  · rw [show u.mem = s.mem from hframe .mem hw,
      show u.config = s.config from hframe .config (not_mem_partsWrittenBy _).2.2]
    exact hm

/-- DXYN's rectangle lies in the framebuffer, where its test lets it, and drawing there keeps the canonical form. -/
theorem framebuffer_wf_of_completed (hfb : s.fb.wf) (hc : causeOfDecoded s.fetched s = none)
    (hu : execDecoded s.fetched s = .next u) (hframe : fieldsSameBut (partsWrittenBy s.fetched) s u) : u.fb.wf := by
  by_cases hw : .fb ∈ partsWrittenBy s.fetched
  · obtain hd | ⟨x, y, n, hd⟩ := screen_mem_partsWrittenBy (.inl hw) <;> rw [hd] at hc hu
    · cases hu
      exact ⟨List.Pairwise.nil, by simp⟩
    · obtain rfl := next_unique (exec_drw hc) hu
      have hdraw := Option.map_eq_none_iff.mp ((drawRaise?_cause x y n s).trans hc)
      exact Framebuffer.wf_draw hfb (s.spriteCells_lt (drawRaise?_eq_none.mp hdraw).2)
  · rw [show u.fb = s.fb from hframe .fb hw]
    exact hfb

/-- A call pushes a pc it was fetched from; a return leaves fewer entries in use. -/
theorem entries_of_completed (hf : s.fetches)
    (he : ∀ k : Fin 16, k.val < s.sp.val → s.stack[k.val].toNat ≤ lastFetch)
    (hc : causeOfDecoded s.fetched s = none) (hu : execDecoded s.fetched s = .next u)
    (hframe : fieldsSameBut (partsWrittenBy s.fetched) s u) (k : Fin 16) (hk : k.val < u.sp.val) :
    u.stack[k.val].toNat ≤ lastFetch := by
  by_cases hw : .sp ∈ partsWrittenBy s.fetched ∨ .stack ∈ partsWrittenBy s.fetched
  · obtain ⟨nnn, hd⟩ | hd := stack_mem_partsWrittenBy hw <;> rw [hd] at hc hu
    · have hsp := (causeOf_call_eq_none (nnn := nnn)).mp hc
      obtain rfl := next_unique (exec_call hsp) hu
      have hk' : k.val < s.sp.val + 1 := hk
      show (s.stack.set s.sp.val s.pc)[k.val].toNat ≤ lastFetch
      rw [Vector.getElem_set]
      split
      · exact hf.2
      · exact he k (by omega)
    · have hsp := causeOf_ret_eq_none.mp hc
      obtain rfl := next_unique (exec_ret hsp) hu
      exact he k (Nat.lt_of_lt_of_le hk (Nat.sub_le _ _))
  · rw [not_or] at hw
    have hsp : u.sp = s.sp := hframe .sp hw.1
    have hstack : u.stack = s.stack := hframe .stack hw.2
    rw [hstack]
    exact he k (hsp ▸ hk)

/-- From a pc that is fetched from, the advance and the skip stay below 0x10FE (R28). -/
theorem pc_le_of_advance {p pc : Word} (hpc : pc.toNat ≤ lastFetch) (h : p = pc ∨ p = pc + 2 ∨ p = pc + 4) :
    p.toNat ≤ 0x10FE := by
  have hle : pc.toNat ≤ 0xFFE := hpc
  obtain rfl | rfl | rfl := h <;> bv_omega

/-- The bound on pc of R28, read off the table of R27: the largest target is that of BFFF with V0 = 0xFF. -/
theorem pc_le_of_cycle (he : ∀ k : Fin 16, k.val < s.sp.val → s.stack[k.val].toNat ≤ lastFetch)
    (hs : ¬ s.faulted) (h : step s = .next t) (ht : ¬ t.faulted) : t.pc.toNat ≤ 0x10FE := by
  have hlist := (eachInstructionLeavesPcAsListed s t hs h).2 ht
  obtain ⟨hf, hc, -⟩ := cycle_completed hs h ht
  have hadv : t.pc = s.pc ∨ t.pc = s.pc + 2 ∨ t.pc = s.pc + 4 → t.pc.toNat ≤ 0x10FE := pc_le_of_advance hf.2
  generalize s.fetched = d at hc hlist
  rcases d with i | _ | _
  case placeholder => exact hadv (.inr (.inl hlist))
  case unmatched => exact hadv (.inl hlist)
  cases i with
  | sys _ => exact hadv (.inl hlist)
  | jp nnn | call nnn =>
    have := nnn.isLt
    omega
  | jpV0 nnn =>
    have := nnn.isLt
    have := (s.readV 0).isLt
    omega
  | ret =>
    have hsp := causeOf_ret_eq_none.mp hc
    have htop := he ⟨s.sp.val - 1, by omega⟩ (Nat.sub_lt hsp Nat.one_pos)
    rw [topEntry_eq hsp] at hlist
    exact pc_le_of_advance htop (.inr (.inl hlist))
  | seImm _ _ | sneImm _ _ | seReg _ _ | sneReg _ _ =>
    simp only at hlist
    split at hlist <;> exact hadv (by simp [hlist])
  | skp x | sknp x =>
    have hx : (s.readV x).toNat < 16 := keyRaise?_eq_none.mp (Option.map_eq_none_iff.mp ((keyRaise?_cause _).trans hc))
    have hk := hlist ⟨_, hx⟩ rfl
    split at hk <;> exact hadv (by simp [hk])
  | ldVxK x =>
    by_cases hdown : ∃ k, s.keyDown k = true
    · exact hadv (.inr (.inl (hlist.1 hdown)))
    · exact hadv (.inl (hlist.2 (by simpa using hdown)))
  | ldImm _ _ | addImm _ _ | ldReg _ _ | orReg _ _ | andReg _ _ | xorReg _ _ | addReg _ _ | sub _ _
  | shr _ _ | subn _ _ | shl _ _ | ldI _ | rnd _ _ | ldVxDt _ | ldDtVx _ | ldStVx _ | addI _ | ldF _ | cls
  | drw _ _ _ | ldB _ | stRegs _ | ldRegs _ => exact hadv (.inr (.inl hlist))

end Completed

/-! ### Every cycle -/

/-- A latched fault keeps every clause and names the pc the core is stuck at. -/
theorem inv_latch {s : State} (hs : s.Inv) (r : Raise) (w : Word) : (s.latch r w).Inv where
  memory := hs.memory
  framebuffer := hs.framebuffer
  pcRange := hs.pcRange
  entries := hs.entries
  latch := .inr ⟨faulted_latch s r w, rfl⟩

/-- Settles O25: a stuck or faulting cycle keeps everything but the latch, and a completing one keeps each clause. -/
theorem everyStepKeepsTheInvariant : Obligations.EveryStepKeepsTheInvariant := by
  intro s t hs h
  by_cases hsf : s.faulted
  · rwa [next_unique (faultedCoreIsStuck s hsf) h]
  by_cases ht : t.faulted
  · obtain ⟨r, w, rfl⟩ := cycle_faulted hsf h ht
    exact inv_latch hs r w
  have hpc := pc_le_of_cycle hs.entries hsf h ht
  obtain ⟨hf, hc, u, hu, hframe, rfl⟩ := cycle_completed hsf h ht
  have hlatch : u.FAULT = s.FAULT := hframe .FAULT (not_mem_partsWrittenBy _).2.1
  obtain ⟨hnone, hclear⟩ := hs.latch.resolve_right fun hstuck => hsf hstuck.1
  have hmem := memory_wf_of_completed hs.memory hc hu hframe
  have hfb := framebuffer_wf_of_completed hs.framebuffer hc hu hframe
  have hent := entries_of_completed hf hs.entries hc hu hframe
  exact {
    memory := hmem
    framebuffer := hfb
    pcRange := hpc
    entries := hent
    latch := .inl (by rw [State.tick_FAULT, hlatch]; exact ⟨hnone, hclear⟩) }

/-! ### Every host move -/

theorem imageTooLarge_iff (image : List Byte) : imageTooLarge image = true ↔ 4096 ≤ image.length + 0x200 := by
  rw [imageTooLarge, decide_eq_true_iff]

/-- An image that is not too large ends within memory (R306). -/
theorem inv_loadImage {s : State} {image : List Byte} (hs : s.Inv) (h : ¬ imageTooLarge image = true) :
    (s.loadImage image).Inv where
  memory := Memory.wf_writeAll hs.memory (by
    rw [imageTooLarge_iff] at h
    exact Nat.le_of_lt (by simpa [Nat.add_comm] using Nat.not_le.mp h))
  framebuffer := hs.framebuffer
  pcRange := hs.pcRange
  entries := hs.entries
  latch := hs.latch

theorem inv_setKey {s : State} (hs : s.Inv) (k : Fin 16) (b : Bool) : (s.setKey k b).Inv :=
  ⟨hs.memory, hs.framebuffer, hs.pcRange, hs.entries, hs.latch⟩

theorem inv_setNeedsRedraw {s : State} (hs : s.Inv) (b : Bool) : (s.setNeedsRedraw b).Inv :=
  ⟨hs.memory, hs.framebuffer, hs.pcRange, hs.entries, hs.latch⟩

theorem inv_of_hostOp {s t : State} {op : HostOp} {reply : HostReply} (hs : s.Inv)
    (h : hostOp op s = .next (t, reply)) : t.Inv := by
  cases op with
  | reset =>
    cases h
    exact inv_resetWith _ _
  | loadProgram image =>
    simp only [hostOp] at h
    split at h <;> cases h
    · exact hs
    · next hfit => exact inv_loadImage hs hfit
  | cycle => exact everyStepKeepsTheInvariant s t hs (step_of_hostOp_cycle h)
  | setKeyState k pressed =>
    simp only [hostOp] at h
    split at h <;> cases h
    exact inv_setKey hs _ pressed
  | clearRedrawFlag =>
    cases h
    exact inv_setNeedsRedraw hs false
  | loadFails | needsRedraw | getFramebuffer | readFault =>
    cases h
    exact hs

theorem inv_of_reachable {s : State} (h : Reachable s) : s.Inv := by
  induction h with
  | reset c d => exact inv_resetWith c d
  | move _ hmove ih => exact inv_of_hostOp ih hmove

/-- Settles O26: `Reset` establishes the invariant, `LoadProgram` stores below 0x1000, a cycle is O25, and the other
moves leave every clause alone; the reachable states follow by induction on the moves. -/
theorem everyHostMoveKeepsTheInvariant : Obligations.EveryHostMoveKeepsTheInvariant :=
  ⟨fun _ _ _ _ => inv_of_hostOp, fun _ h => ⟨inv_of_reachable h, (inv_of_reachable h).pcRange⟩⟩

end Sys2Proof.Machine
end

section
/-! PROOFS. The instructions that write a register and the flag, and the random byte (R176 to R181): obligations O30, O31
and O32. -/

namespace Sys2Proof.Machine

/-! ### Result, then flag (R24) -/

theorem readV_writeV_setVF {x : Reg} (hx : x ≠ VF) (s : State) (b : Byte) (c : Bool) :
    ((s.writeV x b).setVF c).advance.readV x = b := by
  rw [State.readV_advance, State.readV_setVF, if_neg hx, State.readV_writeV_self]

/-- The flag is written last, so it stays whatever the destination. -/
theorem readV_VF_writeV_setVF (x : Reg) (s : State) (b : Byte) (c : Bool) :
    ((s.writeV x b).setVF c).advance.readV VF = flagByte c := by
  rw [State.readV_advance, State.readV_setVF, if_pos rfl]

theorem writeV_setVF_frame (x : Reg) (s : State) (b : Byte) (c : Bool) :
    ((s.writeV x b).setVF c).advance.pc = s.pc + 2 ∧ regsSameBut [x, VF] s ((s.writeV x b).setVF c).advance ∧
      sameBut [.V, .pc] s ((s.writeV x b).setVF c).advance :=
  ⟨rfl, regsSameBut_writeV_setVF s x b c, sameBut_of_fieldsSameBut (by decide) (frame_V_pc s _ _)⟩

theorem exec_addReg (x y : Reg) (s : State) : exec (.addReg x y) s =
    .next ((s.writeV x (s.readV x + s.readV y)).setVF (addCarry (s.readV x) (s.readV y))).advance := rfl

theorem exec_sub (x y : Reg) (s : State) : exec (.sub x y) s =
    .next ((s.writeV x (s.readV x - s.readV y)).setVF (subNoBorrow (s.readV x) (s.readV y))).advance := rfl

theorem exec_subn (x y : Reg) (s : State) : exec (.subn x y) s =
    .next ((s.writeV x (s.readV y - s.readV x)).setVF (subnGreater (s.readV x) (s.readV y))).advance := rfl

/-- The difference of two bytes, as the statements write it. -/
theorem byte_sub_toNat (a b : Byte) : (a - b).toNat = (a.toNat + 256 - b.toNat) % 256 := by
  have hb := b.isLt
  rw [BitVec.toNat_sub]
  omega

theorem flagByte_addCarry (a b : Byte) :
    (flagByte (addCarry a b)).toNat = if 255 < a.toNat + b.toNat then 1 else 0 := by
  rw [flagByte_toNat]
  exact if_congr (addCarry_iff a b) rfl rfl

/-- The flag of 8XY5 is 1 where nothing is borrowed; the statement names the borrow first. -/
theorem flagByte_subNoBorrow (a b : Byte) :
    (flagByte (subNoBorrow a b)).toNat = if a.toNat < b.toNat then 0 else 1 := by
  rw [flagByte_toNat, if_congr (subNoBorrow_iff a b) rfl rfl]
  by_cases h : a.toNat < b.toNat
  · rw [if_pos h, if_neg (Nat.not_le.mpr h)]
  · rw [if_neg h, if_pos (Nat.not_lt.mp h)]

theorem flagByte_subnGreater (a b : Byte) :
    (flagByte (subnGreater a b)).toNat = if a.toNat < b.toNat then 1 else 0 := by
  rw [flagByte_toNat]
  exact if_congr (subnGreater_iff a b) rfl rfl

/-- Settles O30: each instruction writes its result, then a flag computed from the operands it read first. -/
theorem addAndSubtractReportInFlag : Obligations.AddAndSubtractReportInFlag := by
  intro x y s
  refine ⟨⟨wordReads_of_encode (encode_addReg x y) rfl, _, exec_addReg x y s, fun hx => ?_, ?_,
      writeV_setVF_frame x s _ _⟩,
    ⟨wordReads_of_encode (encode_sub x y) rfl, _, exec_sub x y s, fun hx => ?_, ?_, writeV_setVF_frame x s _ _⟩,
    ⟨wordReads_of_encode (encode_subn x y) rfl, _, exec_subn x y s, fun hx => ?_, ?_, writeV_setVF_frame x s _ _⟩⟩
  · rw [readV_writeV_setVF hx]
    exact BitVec.toNat_add ..
  · rw [readV_VF_writeV_setVF, flagByte_addCarry]
  · rw [readV_writeV_setVF hx, byte_sub_toNat]
  · rw [readV_VF_writeV_setVF, flagByte_subNoBorrow]
  · rw [readV_writeV_setVF hx, byte_sub_toNat]
  · rw [readV_VF_writeV_setVF, flagByte_subnGreater]

/-! ### Flag, then shift (R24) -/

theorem exec_shr (x y : Reg) (s : State) : exec (.shr x y) s = .next ((s.setVF (lowBit (s.readV x))).writeV x
    ((s.setVF (lowBit (s.readV x))).readV x >>> 1)).advance := rfl

theorem exec_shl (x y : Reg) (s : State) : exec (.shl x y) s = .next ((s.setVF (highBit (s.readV x))).writeV x
    ((s.setVF (highBit (s.readV x))).readV x <<< 1)).advance := rfl

theorem readV_VF_setVF_writeV {x : Reg} (hx : x ≠ VF) (s : State) (b : Byte) (c : Bool) :
    ((s.setVF c).writeV x b).advance.readV VF = flagByte c := by
  rw [State.readV_advance, State.readV_writeV_ne _ hx.symm, State.readV_setVF, if_pos rfl]

theorem setVF_writeV_frame (x : Reg) (s : State) (b : Byte) (c : Bool) :
    ((s.setVF c).writeV x b).advance.pc = s.pc + 2 ∧ regsSameBut [x, VF] s ((s.setVF c).writeV x b).advance ∧
      sameBut [.V, .pc] s ((s.setVF c).writeV x b).advance :=
  ⟨rfl, regsSameBut_setVF_writeV s x b c, sameBut_of_fieldsSameBut (by decide) (frame_V_pc s _ _)⟩

/-- A flag shifted right by one is 0. -/
theorem flagByte_shiftRight (c : Bool) : flagByte c >>> 1 = 0 := by
  cases c <;> rfl

/-- A flag shifted left by one is 0 or 2. -/
theorem flagByte_shiftLeft (c : Bool) : (flagByte c <<< 1).toNat = (flagByte c).toNat * 2 := by
  cases c <;> rfl

/-- Settles O31: the flag is written first, so a register other than VF is shifted from its old value, and VF from the
flag. -/
theorem shiftsMoveOneBitThroughFlag : Obligations.ShiftsMoveOneBitThroughFlag := by
  intro x y s
  refine ⟨⟨wordReads_of_encode (encode_shr x y) rfl, _, exec_shr x y s, fun hx => ⟨?_, ?_⟩, fun hx => ?_,
      setVF_writeV_frame x s _ _⟩,
    ⟨wordReads_of_encode (encode_shl x y) rfl, _, exec_shl x y s, fun hx => ⟨?_, ?_⟩, fun hx => ?_,
      setVF_writeV_frame x s _ _⟩⟩
  · rw [readV_writeV_advance_self, State.readV_setVF, if_neg hx, shiftRight_one_toNat]
  · rw [readV_VF_setVF_writeV hx, flagByte_lowBit]
  · rw [hx, readV_writeV_advance_self, State.readV_setVF, if_pos rfl, flagByte_shiftRight]
  · rw [readV_writeV_advance_self, State.readV_setVF, if_neg hx, shiftLeft_one_toNat]
  · rw [readV_VF_setVF_writeV hx, flagByte_highBit]
  · rw [hx, readV_writeV_advance_self, State.readV_setVF, if_pos rfl, flagByte_shiftLeft, flagByte_highBit]

/-! ### The random byte (R181) -/

theorem exec_rnd (x : Reg) (kk : Byte) (s : State) :
    exec (.rnd x kk) s = .next (s.countDraw.writeV x (Config.randomByte s.draws &&& kk)).advance := rfl

/-- What is masked with KK has no bit outside KK. -/
theorem and_and_not_self (a b : Byte) : a &&& b &&& ~~~b = 0 := by
  rw [BitVec.and_assoc, BitVec.and_not_self]
  exact BitVec.and_zero

/-- Settles O32: one register is written, from the draw's free value, and the counter advances. -/
theorem randomIsMaskedFreshDraw : Obligations.RandomIsMaskedFreshDraw := by
  intro x kk s
  have hread := readV_writeV_advance_self x (Config.randomByte s.draws &&& kk) s.countDraw
  refine ⟨wordReads_of_encode rfl rfl, _, exec_rnd x kk s, hread, ?_, rfl, rfl, ?_, ?_⟩
  · rw [hread, and_and_not_self]
  · exact (writeV_advance_frame x _ s.countDraw).2.1
  · exact sameBut_of_exec (exec_rnd x kk s) rfl

end Sys2Proof.Machine
end

section
/-! PROOFS. Control transfer (R140 to R147): obligations O33, O34, O35, O36 and O38. -/

namespace Sys2Proof

/-- A word 5XYl or 9XYl with a last digit other than 0 is read as no row (R97). -/
theorem decodeWord_formatXYN_gap {h : Nat} (hh : h = 0x5 ∨ h = 0x9) (x y : Reg) {l : Fin 16} (hl : l ≠ 0) :
    decodeWord (formatXYN h x y l) = .error .unmatched := by
  have hl' : l.val ≠ 0 := fun e => hl (Fin.ext e)
  obtain rfl | rfl := hh <;> simp [decodeWord, nibble3_formatXYN, nibble0_formatXYN, hl']

end Sys2Proof

namespace Sys2Proof.Machine

/-! ### Jumps and skips -/

theorem exec_jp (nnn : Addr12) (s : State) : exec (.jp nnn) s = .next (s.setPc (zextAddr nnn)) := rfl

theorem exec_jpV0 (nnn : Addr12) (s : State) :
    exec (.jpV0 nnn) s = .next (s.setPc (zextAddr nnn + zextByte (s.readV 0))) := rfl

theorem exec_seReg (x y : Reg) (s : State) : exec (.seReg x y) s = .next (s.skipIf (s.readV x == s.readV y)) := rfl

theorem exec_sneReg (x y : Reg) (s : State) : exec (.sneReg x y) s = .next (s.skipIf (s.readV x != s.readV y)) := rfl

/-- An unfaulted core sent to an address above 0xFFE faults at the next cycle (R122, R141, R147). -/
theorem jump_beyond_faults {s : State} {v : Word} (hn : s.FAULT.cause = none) (hv : 0xFFE < v.toNat) :
    ∃ u, step (s.setPc v) = .next u ∧ faultedWith .fetchOutOfBounds 0 (s.setPc v) u :=
  fetchBeyondMemoryFaults (s.setPc v) hn hv

/-- Settles O33: both jumps write pc only, and a pc above 0xFFE is O12's. -/
theorem jumpsSetPc : Obligations.JumpsSetPc := by
  intro nnn s
  have hjp : (zextAddr nnn).toNat = nnn.toNat := zextAddr_toNat nnn
  have hjpV0 := zextAddr_add_zextByte_toNat nnn (s.readV 0)
  exact ⟨⟨wordReads_of_encode rfl rfl, _, exec_jp nnn s, hjp, sameBut_of_exec (exec_jp nnn s) rfl,
      fun hn hlt => jump_beyond_faults hn (hjp ▸ hlt)⟩,
    ⟨wordReads_of_encode rfl rfl, _, exec_jpV0 nnn s, hjpV0, sameBut_of_exec (exec_jpV0 nnn s) rfl,
      fun hn hlt => jump_beyond_faults hn (hjpV0 ▸ hlt)⟩⟩

/-- Settles O38: both instructions are one `skipIf` on the comparison of two registers, and with another last digit the
words are gaps of their families. -/
theorem skipsOnRegisters : Obligations.SkipsOnRegisters := by
  intro x y s
  refine ⟨⟨wordReads_of_encode rfl rfl, _, exec_seReg x y s, sameBut_skipIf s _, ?_⟩,
    ⟨wordReads_of_encode rfl rfl, _, exec_sneReg x y s, sameBut_skipIf s _, ?_⟩, fun l hl => ?_⟩
  · simp only [State.skipIf_pc, beq_iff_eq]
  · simp only [State.skipIf_pc, bne_iff_ne]
  · exact ⟨decodeWord_formatXYN_gap (.inl rfl) x y hl, decodeWord_formatXYN_gap (.inr rfl) x y hl⟩

/-! ### Call and return -/

/-- The entry a call writes, and the entries it keeps (R142). -/
theorem stack_called (s : State) (h : s.sp.val < 16) (nnn : Addr12) (k : Fin 16) :
    (s.called h nnn).stack[k.val] = if k.val = s.sp.val then s.pc else s.stack[k.val] := by
  show (s.stack.set s.sp.val s.pc)[k.val] = _
  rw [Vector.getElem_set]
  exact if_congr eq_comm rfl rfl

/-- Settles O34: a call with room pushes and jumps, and one without has its cause. -/
theorem callPushesItsOwnAddress : Obligations.CallPushesItsOwnAddress := by
  intro nnn s
  refine ⟨wordReads_of_encode rfl rfl, fun hroom => ?_, fun hfull => exec_faults (if_pos hfull) rfl⟩
  exact ⟨_, exec_call hroom, zextAddr_toNat nnn, rfl, stack_called s hroom nnn,
    sameBut_of_exec (exec_call hroom) (causeOf_call_eq_none.mpr hroom)⟩

/-- Settles O35: a return with an entry pops it and steps over the call, and one without has its cause. -/
theorem returnPopsAndStepsOverTheCall : Obligations.ReturnPopsAndStepsOverTheCall := by
  intro s
  refine ⟨wordReads_of_encode rfl rfl, fun k hk => ?_, fun hempty => exec_faults (if_pos hempty) rfl⟩
  have hsp : 0 < s.sp.val := by omega
  have hk' : s.sp.val - 1 = k.val := by omega
  refine ⟨_, exec_ret hsp, ?_, hk', sameBut_of_exec (exec_ret hsp) (causeOf_ret_eq_none.mpr hsp)⟩
  show s.stack[s.sp.val - 1] + 2 = _
  simp only [hk']

/-- Settles O36: the return pops the entry the call pushed, which is the call's pc. -/
theorem callThenReturnComesBack : Obligations.CallThenReturnComesBack := by
  intro s t u nnn hroom hcall hret
  obtain rfl := next_unique (exec_call hroom) hcall
  have hsp : 0 < (s.called hroom nnn).sp.val := Nat.succ_pos _
  obtain rfl := next_unique (exec_ret hsp) hret
  have hstack (k : Fin 16) := stack_called s hroom nnn k
  refine ⟨?_, rfl, ?_, fun k hk => ?_⟩
  · show (s.called hroom nnn).stack[s.sp.val + 1 - 1] + 2 = _
    simp only [Nat.add_sub_cancel]
    rw [hstack ⟨s.sp.val, hroom⟩, if_pos rfl]
  · exact sameBut_of_fieldsSameBut (by decide) (frame_pc_stack s _ _)
  · exact (hstack k).trans (if_neg (Nat.ne_of_lt hk))

end Sys2Proof.Machine
end

section
/-! PROOFS. Address register and memory (R73, R201, R203 to R205): obligations O40 to O45. -/

namespace Sys2Proof.Machine

/-! ### The sum with I (R201) -/

theorem exec_addI (x : Reg) (s : State) : exec (.addI x) s =
    .next ((s.setI (s.I + zextByte (s.readV x))).setVF (indexOverflow s.I (s.readV x))).advance := rfl

theorem add_zextByte_toNat (i : Word) (b : Byte) : (i + zextByte b).toNat = (i.toNat + b.toNat) % 65536 := by
  rw [BitVec.toNat_add, zextByte_toNat]

/-- Settles O40: I takes the sum mod 65536 and the flag the comparison of the exact one. -/
theorem addToIndexFlagsPastMemory : Obligations.AddToIndexFlagsPastMemory := by
  intro x s
  have he := exec_addI x s
  refine ⟨wordReads_of_encode (encode_addI x) rfl, _, he, add_zextByte_toNat _ _, ?_, rfl,
    onlyDestinationRegistersChange _ s _ he, sameBut_of_exec he rfl⟩
  rw [State.readV_advance, State.readV_setVF, if_pos rfl, flagByte_toNat]
  exact if_congr (indexOverflow_iff s.I (s.readV x)) rfl rfl

/-! ### What the stores leave in memory -/

/-- The k-th byte of a run of stores. -/
theorem readByte_writeBytes_at (s : State) (a : Nat) {bs : List Byte} {k : Nat} (hk : k < bs.length) :
    (s.writeBytes a bs).readByte (a + k) = bs[k] := by
  rw [State.readByte_writeBytes, dif_pos ⟨Nat.le_add_right a k, by omega⟩]
  simp only [Nat.add_sub_cancel_left]

/-- The k-th byte of a block store is register k (R204). -/
theorem readByte_storeBlock (s : State) (base : Nat) {x k : Reg} (hk : k ≤ x) :
    (s.writeBytes base ((regsUpTo x).map s.readV)).readByte (base + k.val) = s.readV k := by
  have hlen : k.val < (regsUpTo x).length := by rw [regsUpTo_length]; exact Nat.lt_succ_of_le hk
  rw [readByte_writeBytes_at s base (by rwa [List.length_map]), List.getElem_map]
  congr 1
  exact Fin.ext (regsUpTo_getElem x k.val hlen)

/-- The k-th digit of a byte, hundreds first (R203). -/
theorem bcdDigits_getElem_toNat (v : Byte) (k : Fin 3) :
    ((bcdDigits v)[k.val]).toNat = v.toNat / 10 ^ (2 - k.val) % 10 := by
  have hv := v.isLt
  fin_cases k <;> simp [bcdDigits] <;> omega

/-- The k-th byte of a decimal store is the k-th digit (R203). -/
theorem readByte_storeDigits (s : State) (base : Nat) (v : Byte) (k : Fin 3) :
    ((s.writeBytes base (bcdDigits v)).readByte (base + k.val)).toNat = v.toNat / 10 ^ (2 - k.val) % 10 := by
  rw [readByte_writeBytes_at s base (k := k.val) (by rw [bcdDigits_length]; exact k.isLt), bcdDigits_getElem_toNat]

theorem memSameOutside_writeBytes (s : State) (a : Nat) (bs : List Byte) :
    memSameOutside a bs.length s (s.writeBytes a bs) :=
  fun _ h => s.readByte_writeBytes_outside h

/-! ### FX33 -/

theorem causeOf_ldB_eq_none {x : Reg} {s : State} : causeOf (.ldB x) s = none ↔ s.I.toNat + 2 ≤ 0xFFF := by
  simp only [causeOf, ite_eq_right_iff, reduceCtorEq, imp_false, Nat.not_lt]

/-- Settles O41: the three digits are one run of stores at I, and past memory the instruction has its cause. -/
theorem storeDecimalDigits : Obligations.StoreDecimalDigits := by
  intro x s
  refine ⟨wordReads_of_encode (encode_ldB x) rfl, fun hfit => ?_, fun hout => exec_faults (if_pos hout) (encode_ldB x)⟩
  have hc := causeOf_ldB_eq_none (x := x).mpr hfit
  have hdigit := readByte_storeDigits s s.I.toNat (s.readV x)
  have hv := (s.readV x).isLt
  refine ⟨_, exec_ldB hc, ?_, (hdigit 1).trans (by simp), (hdigit 2).trans (by simp),
    memSameOutside_writeBytes s _ (bcdDigits _), rfl, sameBut_of_exec (exec_ldB hc) hc⟩
  exact (hdigit 0).trans (by simp; omega)

/-! ### FX55 and FX65 -/

/-- The bound both block transfers test (R204, R205). -/
theorem block_cause_eq_none {x : Reg} {s : State} :
    (if 0xFFF < s.I.toNat + s.config.blockXferOffset.val + x.val then some Fault.memoryOutOfBounds else none) = none ↔
      s.I.toNat + s.config.blockXferOffset.val + x.val ≤ 0xFFF := by
  simp only [ite_eq_right_iff, reduceCtorEq, imp_false, Nat.not_lt]

/-- I after a block transfer within memory does not wrap (R204, R205). -/
theorem blockIndex_toNat {s : State} {x : Reg} (h : s.I.toNat + s.config.blockXferOffset.val + x.val ≤ 0xFFF) :
    (s.I + BitVec.ofNat 16 (x.val + 1)).toNat = s.I.toNat + x.val + 1 := by
  rw [BitVec.toNat_add, BitVec.toNat_ofNat]
  omega

/-- Settles O42: the registers are one run of stores at I plus the offset, and past memory the instruction has its
cause. -/
theorem storeRegisterBlock : Obligations.StoreRegisterBlock := by
  intro x s
  refine ⟨wordReads_of_encode (encode_stRegs x) rfl, fun hfit => ?_,
    fun hout => exec_faults (if_pos hout) (encode_stRegs x)⟩
  have hc : causeOf (.stRegs x) s = none := block_cause_eq_none.mpr hfit
  have hlen : ((regsUpTo x).map s.readV).length = x.val + 1 := by rw [List.length_map, regsUpTo_length]
  exact ⟨_, exec_stRegs hc, fun k hk => readByte_storeBlock s s.blockBase hk,
    hlen ▸ memSameOutside_writeBytes s s.blockBase ((regsUpTo x).map s.readV), blockIndex_toNat hfit, rfl,
    sameBut_of_exec (exec_stRegs hc) hc⟩

/-- A block load's registers: those up to x from memory, the others kept (R205). -/
theorem readV_loadBlock (s : State) (base : Nat) (x k : Reg) :
    (s.loadRegs base (regsUpTo x)).readV k = if k ≤ x then s.readByte (base + k.val) else s.readV k := by
  rw [State.readV_loadRegs]
  exact if_congr (mem_regsUpTo x k) rfl rfl

/-- Settles O43: the registers up to x are loaded from I plus the offset, and past memory the instruction has its
cause. -/
theorem loadRegisterBlock : Obligations.LoadRegisterBlock := by
  intro x s
  refine ⟨wordReads_of_encode (encode_ldRegs x) rfl, fun hfit => ?_,
    fun hout => exec_faults (if_pos hout) (encode_ldRegs x)⟩
  have hc : causeOf (.ldRegs x) s = none := block_cause_eq_none.mpr hfit
  have hpc : (s.loadRegs s.blockBase (regsUpTo x)).pc = s.pc := by rw [s.loadRegs_eq_with]
  exact ⟨_, exec_ldRegs hc, readV_loadBlock s s.blockBase x, blockIndex_toNat hfit, congrArg (· + 2) hpc,
    sameBut_of_exec (exec_ldRegs hc) hc⟩

/-- An instruction that leaves no fault latched had no cause. -/
theorem cause_none_of_not_faulted {i : Instr} {s t : State} (h : exec i s = .next t) (ht : ¬ t.faulted) :
    causeOf i s = none := by
  obtain ⟨r, -, rfl⟩ | hdone := exec_cases h
  · exact absurd (faulted_latch s r _) ht
  · exact hdone.1

/-- Settles O44: the load reads the addresses the store wrote, since both start from the same I and offset. -/
theorem blockStoreThenLoadReturnsRegisters : Obligations.BlockStoreThenLoadReturnsRegisters := by
  intro x s t v u _ hst ht hI hconfig hmem hld k hk
  have hc := cause_none_of_not_faulted hst ht
  have hbase : v.blockBase = s.blockBase := by rw [State.blockBase, State.blockBase, hI, hconfig]
  have hcv : causeOf (.ldRegs x) v = none := by
    rw [causeOf, hI, hconfig]
    exact hc
  obtain rfl := next_unique (exec_stRegs hc) hst
  obtain rfl := next_unique (exec_ldRegs hcv) hld
  calc (v.loadRegs v.blockBase (regsUpTo x)).readV k
      = v.readByte (v.blockBase + k.val) := (readV_loadBlock v _ x k).trans (if_pos hk)
    _ = (s.writeBytes s.blockBase ((regsUpTo x).map s.readV)).readByte (s.blockBase + k.val) := by
        rw [hmem, hbase]
        rfl
    _ = s.readV k := readByte_storeBlock s s.blockBase hk

/-! ### The next fetch (R73) -/

theorem fetchWord_high (s : State) : s.fetchWord.toNat / 0x100 = (s.readByte s.pc.toNat).toNat := by
  have := (s.readByte (s.pc.toNat + 1)).isLt
  rw [State.fetchWord, wordOfBytes_toNat]
  omega

theorem fetchWord_low (s : State) : s.fetchWord.toNat % 0x100 = (s.readByte (s.pc.toNat + 1)).toNat := by
  have := (s.readByte (s.pc.toNat + 1)).isLt
  rw [State.fetchWord, wordOfBytes_toNat]
  omega

/-- A byte of number n at address a is the high byte of the word fetched at a, and the low byte of the one before. -/
theorem fetch_sees_byte {t : State} {a n : Nat} (h : (t.readByte a).toNat = n) :
    (t.pc.toNat = a → t.fetchWord.toNat / 0x100 = n) ∧ (t.pc.toNat + 1 = a → t.fetchWord.toNat % 0x100 = n) := by
  refine ⟨fun hpc => ?_, fun hpc => ?_⟩
  · rw [fetchWord_high, hpc, h]
  · rw [fetchWord_low, hpc, h]

/-- Settles O45: a fetch reads memory as the stores left it. -/
theorem nextFetchSeesEveryStore : Obligations.NextFetchSeesEveryStore := by
  refine ⟨fun x s t _ h ht k hk => fetch_sees_byte ?_, fun x s t _ h ht k => fetch_sees_byte ?_,
    fun image s t h i hi => fetch_sees_byte ?_⟩
  · obtain rfl := next_unique (exec_stRegs (cause_none_of_not_faulted h ht)) h
    exact congrArg BitVec.toNat (readByte_storeBlock s s.blockBase hk)
  · obtain rfl := next_unique (exec_ldB (cause_none_of_not_faulted h ht)) h
    exact readByte_storeDigits s s.I.toNat (s.readV x) k
  · simp only [hostOp] at h
    split at h <;> cases h
    exact congrArg BitVec.toNat (readByte_writeBytes_at s 0x200 hi)

end Sys2Proof.Machine
end

section
/-! PROOFS. Display (R220 to R222): obligations O46 to O49. -/

namespace Sys2Proof.Machine

theorem exec_cls (s : State) : exec .cls s = .next ((s.setFb []).setNeedsRedraw true).advance := rfl

/-- Settles O46: the empty list of lit cells reads 0 everywhere. -/
theorem clearScreenClearsEveryCell : Obligations.ClearScreenClearsEveryCell := by
  intro s
  exact ⟨wordReads_of_encode rfl rfl, _, exec_cls s, fun _ => rfl, rfl, rfl, sameBut_of_exec (exec_cls s) rfl⟩

/-! ### What DXYN draws -/

/-- The cells DXYN toggles are those under a set pixel of its sprite (R221, R222). -/
theorem mem_drawnCells {x y : Reg} {n : Fin 16} {s : State} {idx : Nat} :
    idx ∈ drawnCells x y n s ↔ spriteCovers s (s.readV x).toNat (s.readV y).toNat n.val idx :=
  s.mem_spriteCells _ _ s.I.toNat n.val idx

theorem drawnCells_nodup (x y : Reg) (n : Fin 16) (s : State) : (drawnCells x y n s).Nodup :=
  s.spriteCells_nodup _ _ _ _

section Drawn

variable {x y : Reg} {n : Fin 16} {s t : State}

/-- A DXYN without a cause flips exactly the cells of its sprite (R222). -/
theorem fb_read_of_draw (hc : causeOf (.drw x y n) s = none) (h : exec (.drw x y n) s = .next t) (idx : Nat) :
    t.fb.read idx = if idx ∈ drawnCells x y n s then !s.fb.read idx else s.fb.read idx := by
  obtain rfl := next_unique (exec_drw hc) h
  exact (Framebuffer.draw_spec (drawnCells_nodup x y n s) s.fb).1 idx

/-- And VF says whether one of them was lit (R222). -/
theorem readV_VF_of_draw (hc : causeOf (.drw x y n) s = none) (h : exec (.drw x y n) s = .next t) :
    ∃ hit, t.readV VF = flagByte hit ∧ (hit = true ↔ ∃ idx ∈ drawnCells x y n s, s.fb.read idx = true) := by
  obtain rfl := next_unique (exec_drw hc) h
  exact ⟨_, readV_writeV_advance_self VF _ s, (Framebuffer.draw_spec (drawnCells_nodup x y n s) s.fb).2⟩

theorem readV_VF_eq_one_of_draw (hc : causeOf (.drw x y n) s = none) (h : exec (.drw x y n) s = .next t)
    (hlit : ∃ idx ∈ drawnCells x y n s, s.fb.read idx = true) : t.readV VF = 1 := by
  obtain ⟨hit, hVF, hiff⟩ := readV_VF_of_draw hc h
  rw [hVF, hiff.mpr hlit]
  rfl

end Drawn

/-- DXYN has no cause where its rows are in memory and its rectangle in the framebuffer, or it has no rows (R222). -/
theorem causeOf_drw_eq_none {x y : Reg} {n : Fin 16} {s : State}
    (h : n.val = 0 ∨ (s.I.toNat + n.val - 1 ≤ 0xFFF ∧
      ((s.readV y).toNat + n.val - 1) * 64 + (s.readV x).toNat + 7 ≤ 2047)) : causeOf (.drw x y n) s = none := by
  rw [causeOf, if_neg (by omega), if_neg (by omega)]

/-- Settles O47: the cells drawn are the covered ones, each flipped once. -/
theorem drawFlipsExactlyTheSpritePixels : Obligations.DrawFlipsExactlyTheSpritePixels := by
  intro x y n s
  refine ⟨wordReads_of_encode rfl rfl, fun hfit => ?_⟩
  have hc := causeOf_drw_eq_none hfit
  have he := exec_drw hc
  refine ⟨_, he, fun idx => ⟨fun hcov => ?_, fun hcov => ?_⟩, ?_, fun hdark => ?_, rfl, rfl,
    onlyDestinationRegistersChange _ s _ he, sameBut_of_exec he hc⟩
  · rw [fb_read_of_draw hc he, if_pos (mem_drawnCells.mpr hcov)]
  · rw [fb_read_of_draw hc he, if_neg (mem_drawnCells.not.mpr hcov)]
  · rintro ⟨idx, hcov, hlit⟩
    exact readV_VF_eq_one_of_draw hc he ⟨idx, mem_drawnCells.mpr hcov, hlit⟩
  · obtain ⟨hit, hVF, hiff⟩ := readV_VF_of_draw hc he
    have hmiss : hit = false := by
      rw [Bool.eq_false_iff, ne_eq, hiff]
      rintro ⟨idx, hmem, hlit⟩
      exact absurd hlit (by simp [hdark idx (mem_drawnCells.mp hmem)])
    rw [hVF, hmiss]
    rfl

/-- Settles O48: memory is the first condition of DXYN's cause, the framebuffer the second. -/
theorem drawOutsideBoundsFaults : Obligations.DrawOutsideBoundsFaults := by
  intro x y n s hn
  have hpos : 0 < n.val := Nat.pos_of_ne_zero hn
  refine ⟨fun hmem => exec_faults ?_ rfl, fun hmem hfb => exec_faults ?_ rfl⟩
  · rw [causeOf, if_pos ⟨hpos, hmem⟩]
  · rw [causeOf, if_neg (by omega), if_pos ⟨hpos, hfb⟩]

/-- A draw keeps what the next draw of the same sprite reads: the coordinates, unless VF names one, I and memory. -/
theorem sprite_kept_of_draw {x y : Reg} {n : Fin 16} {s t : State} (hx : x ≠ VF) (hy : y ≠ VF)
    (hc : causeOf (.drw x y n) s = none) (h : exec (.drw x y n) s = .next t) :
    t.readV x = s.readV x ∧ t.readV y = s.readV y ∧ t.I = s.I ∧ ∀ a, t.readByte a = s.readByte a := by
  have hregs := onlyDestinationRegistersChange _ s t h
  have hframe := sameBut_of_exec h hc
  exact ⟨hregs x (by simpa [registersWritten] using hx), hregs y (by simpa [registersWritten] using hy),
    hframe .I (by simp [partsWritten]), hframe .mem (by simp [partsWritten])⟩

/-- Settles O49: the second draw flips the same cells, back, and finds lit those the first one lit. -/
theorem drawingTwiceRestoresTheScreen : Obligations.DrawingTwiceRestoresTheScreen := by
  intro x y n s t u hx hy _ hst ht htu
  have hc := cause_none_of_not_faulted hst ht
  obtain ⟨hVx, hVy, hI, hmem⟩ := sprite_kept_of_draw hx hy hc hst
  have hcells : drawnCells x y n t = drawnCells x y n s := by
    simp only [drawnCells, State.spriteCells, hVx, hVy, hI, hmem]
  have hct : causeOf (.drw x y n) t = none := by
    simpa only [causeOf, hVx, hVy, hI] using hc
  have hfirst := fb_read_of_draw hc hst
  refine ⟨fun idx => ?_, ?_⟩
  · rw [fb_read_of_draw hct htu, hcells, hfirst]
    split <;> simp
  · rintro ⟨idx, hcov, hdark⟩
    have hdrawn := mem_drawnCells.mpr hcov
    refine readV_VF_eq_one_of_draw hct htu ⟨idx, hcells ▸ hdrawn, ?_⟩
    rw [hfirst, if_pos hdrawn, hdark]
    rfl

end Sys2Proof.Machine
end

section
/-! PROOFS. Keypad and sound timer (R240 to R242, R245): obligations O50, O51 and O53. -/

namespace Sys2Proof.Machine

/-- Settles O50: both instructions are one `skipIf` on the named key, and above 15 they have the same cause. -/
theorem keySkipsTestTheNamedKey : Obligations.KeySkipsTestTheNamedKey := by
  intro x s
  refine ⟨wordReads_of_encode (encode_skp x) rfl, wordReads_of_encode (encode_sknp x) rfl, fun k hk => ?_,
    fun hout => ⟨exec_faults (if_pos hout) (encode_skp x), exec_faults (if_pos hout) (encode_sknp x)⟩⟩
  have hc : causeOf (.skp x) s = none := if_neg (by omega)
  refine ⟨⟨_, exec_skp hc, sameBut_skipIf s _, ?_⟩, ⟨_, exec_sknp hc, sameBut_skipIf s _, ?_⟩⟩
  · rw [State.skipIf_pc, keyDownOf_eq hk.symm]
  · simp [keyDownOf_eq hk.symm]

/-- The lowest key is the one that is down with no lower one down (R242). -/
theorem lowestKey_eq_some_of {s : State} {k : Fin 16} (hk : s.keyDown k = true) (hlow : ∀ j < k, s.keyDown j = false) :
    s.lowestKey = some k := by
  cases hfound : s.lowestKey with
  | none => exact absurd hk (by simp [s.lowestKey_eq_none hfound k])
  | some j =>
    obtain ⟨hj, hlow'⟩ := s.lowestKey_eq_some hfound
    obtain hlt | rfl | hgt := lt_trichotomy j k
    · exact absurd hj (by simp [hlow j hlt])
    · rfl
    · exact absurd hk (by simp [hlow' k hgt])

/-- Settles O51: the key found is the lowest, and with none the instruction answers the state it was given. -/
theorem waitForKeyTakesTheLowest : Obligations.WaitForKeyTakesTheLowest := by
  intro x s
  refine ⟨wordReads_of_encode (encode_ldVxK x) rfl, fun k hk hlow => ?_, fun hnone => ?_⟩
  · refine ⟨_, exec_ldVxK (lowestKey_eq_some_of hk hlow), ?_, writeV_advance_frame x _ s⟩
    rw [readV_writeV_advance_self, BitVec.toNat_ofNat]
    omega
  · have he := exec_ldVxK_waiting (x := x) (lowestKey_eq_none_iff.mpr hnone)
    exact ⟨he, fun hf hd => ⟨_, step_of_idle_row hf hd he, tick_spec s⟩⟩

theorem exec_ldStVx (x : Reg) (s : State) : exec (.ldStVx x) s = .next (s.setST (s.readV x)).advance := rfl

/-- Settles O53: the instruction writes ST and advances, and the post-step of its cycle lowers what it wrote. -/
theorem soundTimerIsSet : Obligations.SoundTimerIsSet := by
  intro x s
  have he := exec_ldStVx x s
  exact ⟨wordReads_of_encode (encode_ldStVx x) rfl, ⟨_, he, rfl, rfl, sameBut_of_exec he rfl⟩,
    fun hf hd => ⟨_, step_eq_tick_of_exec hf hd he hf.1, countDown_toNat _⟩⟩

end Sys2Proof.Machine
end

section
/-! PROOFS. The host's moves (R39, R41, R272, R275, R279, R300, R306): obligations O54, O55, O56, O58 and O59. -/

namespace Sys2Proof.Machine

/-- Settles O54: memory after `Reset` reads as its reset contents, FONT below 80 and 0 above. -/
theorem resetGivesTheListedState : Obligations.ResetGivesTheListedState := by
  intro s
  refine ⟨s.hostReset, rfl, fun a ha => ?_, fun a ha => ?_, fun r => ?_, rfl, rfl, rfl, fun k => ?_, rfl, rfl,
    fun k => ?_, fun _ => rfl, rfl, rfl, rfl, rfl, rfl, rfl⟩
  · exact (State.readByte_resetWith _ _ a).trans (dif_pos ha)
  · exact (State.readByte_resetWith _ _ a).trans (dif_neg (Nat.not_lt.mpr ha))
  · exact Vector.getElem_replicate ..
  · exact Vector.getElem_replicate ..
  · exact Vector.getElem_replicate ..

/-- Settles O55: the test is the statement's, and an image that fits is one run of stores from 0x200 up. -/
theorem loadProgramCopiesTheImage : Obligations.LoadProgramCopiesTheImage := by
  intro image s
  refine ⟨fun hlarge => ?_, fun hfits => ⟨s.loadImage image, ?_, fun i hi => readByte_writeBytes_at s 0x200 hi,
    memSameOutside_writeBytes s 0x200 image, ?_⟩, rfl⟩
  · rw [hostOp, if_pos ((imageTooLarge_iff image).mpr hlarge)]
  · rw [hostOp, if_neg ((imageTooLarge_iff image).not.mpr (Nat.not_le.mpr hfits))]
  · apply sameBut_of_fields <;> simp

/-- Settles O56: a key that exists is overwritten alone, and one that does not is refused. -/
theorem setKeyStateWritesOneKey : Obligations.SetKeyStateWritesOneKey := by
  intro k pressed s
  refine ⟨fun hk => ⟨s.setKey ⟨k, hk⟩ pressed, dif_pos hk, fun j => ?_, ?_⟩, fun hk => dif_neg (by omega)⟩
  · rw [State.keyDown_setKey]
    exact if_congr Fin.ext_iff rfl rfl
  · apply sameBut_of_fields <;> simp

/-- Settles O59: the table of admitted moves before the first `Reset`. -/
theorem onlyResetBeforeTheFirstReset : Obligations.OnlyResetBeforeTheFirstReset := by
  intro c d op
  refine ⟨?_, fun hop => ?_⟩
  · rintro rfl
    rfl
  · cases op with
    | reset => exact absurd rfl hop
    | loadProgram _ | loadFails | cycle | setKeyState _ _ | needsRedraw | clearRedrawFlag | getFramebuffer
    | readFault => rfl

/-- Every move but `Reset` keeps the latch of a faulted core: a cycle is stuck, and the others do not write it (R272). -/
theorem latch_kept_of_hostOp {op : HostOp} {s t : State} {reply : HostReply} (hs : s.faulted)
    (h : hostOp op s = .next (t, reply)) (hop : op ≠ .reset) : t.FAULT = s.FAULT := by
  cases op with
  | reset => exact absurd rfl hop
  | loadProgram image =>
    simp only [hostOp] at h
    split at h <;> cases h <;> rfl
  | cycle => rw [next_unique (faultedCoreIsStuck s hs) (step_of_hostOp_cycle h)]
  | setKeyState k pressed =>
    simp only [hostOp] at h
    split at h <;> cases h
    rfl
  | loadFails | needsRedraw | clearRedrawFlag | getFramebuffer | readFault =>
    cases h
    rfl

/-- Settles O58: the read answers the code of the latched cause, and of the moves only `Reset` writes the latch. -/
theorem hostReadsFaultAndOnlyResetClearsIt : Obligations.HostReadsFaultAndOnlyResetClearsIt := by
  refine ⟨fun s => ⟨s.FAULT.code, rfl, ?_⟩, fun op s t reply hs h => ⟨?_, latch_kept_of_hostOp hs h⟩⟩
  · simp +contextual [FaultLatch.code, Fault.code]
  · rintro rfl
    cases h
    rfl

end Sys2Proof.Machine
end
